-- ==== Sys2Proof/Word.lean ====
section
/-! DEFINITION. The widths of the machine's values: bytes, words, 12-bit immediate addresses,
register numbers (spec/00_scope.md rules R5, R7, R8). -/

namespace Sys2Proof

/-- An 8-bit unsigned value: a general register, a timer, a memory cell (R5, R8). -/
abbrev Byte := BitVec 8

/-- A 16-bit unsigned value: an instruction word, `I`, `pc`, a return address (R5, R8). -/
abbrev Word := BitVec 16

/-- The 12-bit field `nnn = w[11:0]` (R7, R42). -/
abbrev Addr12 := BitVec 12

/-- A register number 0 to 15: the fields `x` and `y`, used directly as the index into `V` (R12, R42). -/
abbrev Reg := Fin 16

/-- A key number 0 to 15 (R21). -/
abbrev KeyNum := Fin 16

/-- The flag register `VF`, general register 15 (R13). -/
abbrev vF : Reg := 15

end Sys2Proof
end

