-- ==== Sys2Proof/Config.lean ====
section
/-! DEFINITION. What an implementation fixes: the constants of spec/00_scope.md rule R5, the open parameters
of rule R6 as plain data, and the one free value, the random byte. -/

namespace Sys2Proof

/-- `MEM_SIZE` (R5): bytes of memory, valid addresses 0x000 to 0xFFF. -/
abbrev memSize : Nat := 4096

/-- `PROG_BASE` (R5): where the program image is placed. -/
abbrev progBase : Nat := 0x200

/-- `MAX_IMAGE` (R5): the largest program image in bytes, `MEM_SIZE - PROG_BASE`. -/
abbrev maxImage : Nat := 3584

/-- `STACK_DEPTH` (R5). -/
abbrev stackDepth : Nat := 16

/-- `DISP_COLS` (R5). -/
abbrev dispCols : Nat := 64

/-- `DISP_ROWS` (R5). -/
abbrev dispRows : Nat := 32

/-- `SHIFT_SRC` (R6, D6): the register `shift-right` and `shift-left` read. -/
inductive ShiftSrc where
  | vx
  | vy
  deriving DecidableEq, Repr

/-- The parameters R6 leaves open. The machine carries them as a constant part of its state, so a
statement about every state holds for every value of them (DESIGN CHOICE, log 2). -/
structure Config where
  /-- `SHIFT_SRC` (R6, D6). -/
  shiftSrc : ShiftSrc
  /-- `FONT_BASE` (R6, D15): the address of the glyph for digit 0. -/
  fontBase : Nat
  /-- `GLYPH_STRIDE` (R6, D15): bytes from one glyph to the next. -/
  glyphStride : Nat
  /-- `FONT_IMAGE` (R6, D16): bytes placed at `FONT_BASE` at reset. -/
  fontImage : List Byte
  deriving DecidableEq, Repr

/-- The defaults of R6. -/
def Config.default : Config :=
  { shiftSrc := .vx, fontBase := 0x000, glyphStride := 5, fontImage := [] }

/-- `Random()` (R6, R70, D17): the byte of the `k`-th draw, a free value under no law. It has no body:
nothing can be proved of any draw (log 3, safe). -/
opaque Config.randomByte : Nat → Byte

end Sys2Proof
end

