-- ==== Sys2Proof/Syntax.lean ====
section
/-! DEFINITION. The instruction set: one constructor per row of spec/opcode_table.json, in the table's order
(spec/30_encoding.md rules R43, R46). Operands are the fields of R41 and R42. -/

namespace Sys2Proof

/-- The 34 instructions of R43. -/
inductive Instr where
  /-- `00E0`, R79. -/
  | clearScreen
  /-- `00EE`, R49 (the table's `return`). -/
  | ret
  /-- `1nnn`, R50. -/
  | jump (nnn : Addr12)
  /-- `2nnn`, R51. -/
  | call (nnn : Addr12)
  /-- `3xkk`, R52. -/
  | skipIfEqual (x : Reg) (kk : Byte)
  /-- `4xkk`, R53. -/
  | skipIfNotEqual (x : Reg) (kk : Byte)
  /-- `5xy0`, R54. -/
  | skipIfRegsEqual (x y : Reg)
  /-- `6xkk`, R58. -/
  | loadImmediate (x : Reg) (kk : Byte)
  /-- `7xkk`, R60. -/
  | addImmediate (x : Reg) (kk : Byte)
  /-- `8xy0`, R61. -/
  | copy (x y : Reg)
  /-- `8xy1`, R62. -/
  | or (x y : Reg)
  /-- `8xy2`, R63. -/
  | and (x y : Reg)
  /-- `8xy3`, R64. -/
  | xor (x y : Reg)
  /-- `8xy4`, R65. -/
  | add (x y : Reg)
  /-- `8xy5`, R66. -/
  | sub (x y : Reg)
  /-- `8xy6`, R67. -/
  | shiftRight (x y : Reg)
  /-- `8xy7`, R68. -/
  | subReverse (x y : Reg)
  /-- `8xyE`, R69. -/
  | shiftLeft (x y : Reg)
  /-- `9xy0`, R55. -/
  | skipIfRegsNotEqual (x y : Reg)
  /-- `Annn`, R72. -/
  | setIndex (nnn : Addr12)
  /-- `Bnnn`, R56. -/
  | jumpWithOffset (nnn : Addr12)
  /-- `Cxkk`, R70. -/
  | randomize (x : Reg) (kk : Byte)
  /-- `Dxyn`, R80; `n` is the number of sprite rows, 0 to 15. -/
  | draw (x y : Reg) (n : Fin 16)
  /-- `Ex9E`, R83. -/
  | skipIfKeyPressed (x : Reg)
  /-- `ExA1`, R84. -/
  | skipIfKeyNotPressed (x : Reg)
  /-- `Fx07`, R85. -/
  | readDelayTimer (x : Reg)
  /-- `Fx0A`, R86. -/
  | waitForKey (x : Reg)
  /-- `Fx15`, R87. -/
  | setDelayTimer (x : Reg)
  /-- `Fx18`, R88. -/
  | setSoundTimer (x : Reg)
  /-- `Fx1E`, R73. -/
  | addToIndex (x : Reg)
  /-- `Fx29`, R74. -/
  | spriteAddress (x : Reg)
  /-- `Fx33`, R75 (the table's `store-BCD`). -/
  | storeBcd (x : Reg)
  /-- `Fx55`, R76. -/
  | storeRegisters (x : Reg)
  /-- `Fx65`, R77. -/
  | loadRegisters (x : Reg)
  deriving DecidableEq, Repr

end Sys2Proof
end

