-- ==== Sys2Proof/WellFormed.lean ====
section
/-! DEFINITION. Well-formedness of what is given to the machine from outside: an instruction's operands, the
parameters of rule R6, a program image (spec/30_encoding.md rule R47, spec/00_scope.md rules R5, R6). -/

namespace Sys2Proof

/-- Well-formed instructions. R47: the register fields accept all 16 values in every instruction that has
them, `n = 0` is legal in `draw`, `nnn` accepts all 4096 values, `kk` all 256; no register number is reserved.
The types of `Instr`'s operands are exactly these ranges, so every term is well-formed and no ill-formed term
can be written. -/
def Instr.wf : Instr → Bool := fun _ => true

/-- The bounds R6 puts on the parameters: `FONT_BASE` is an address 0 to 0x1B0, `FONT_IMAGE` has length 0 to
`0x200 - FONT_BASE`. -/
def Config.wf (c : Config) : Bool :=
  decide (c.fontBase ≤ 0x1B0) && decide (c.fontImage.length ≤ progBase - c.fontBase)

/-- A program image is at most `MAX_IMAGE` bytes long (R5, R89). -/
def imageFits (bytes : List Byte) : Bool := decide (bytes.length ≤ maxImage)

end Sys2Proof
end

