-- ==== Sys2Proof/Decode.lean ====
section
/-! DEFINITION. The instruction encoding of spec/30_encoding.md: field extraction (R7, R41, R42), the total
decoder (R44, R45), the opcode map as data (R43), and after them the encoder. -/

namespace Sys2Proof

/-! ### Fields of an instruction word -/

/-- `class = w[15:12]` (R7, R41). -/
def fieldClass (w : Word) : BitVec 4 := w.extractLsb' 12 4

/-- `x = w[11:8]`, a register number (R7, R42). -/
def fieldX (w : Word) : Reg := ⟨(w.extractLsb' 8 4).toNat, (w.extractLsb' 8 4).isLt⟩

/-- `y = w[7:4]`, a register number (R7, R42). -/
def fieldY (w : Word) : Reg := ⟨(w.extractLsb' 4 4).toNat, (w.extractLsb' 4 4).isLt⟩

/-- `n = w[3:0]`, a sprite height or a sub-opcode (R7, R42). -/
def fieldN (w : Word) : Fin 16 := ⟨(w.extractLsb' 0 4).toNat, (w.extractLsb' 0 4).isLt⟩

/-- `kk = w[7:0]` (R7, R42). -/
def fieldKK (w : Word) : Byte := w.extractLsb' 0 8

/-- `nnn = w[11:0]` (R7, R42). -/
def fieldNNN (w : Word) : Addr12 := w.extractLsb' 0 12

/-! ### The decoder -/

/-- Why bytes decode to no instruction. -/
inductive DecodeReject where
  /-- The word matches no row of R43: `UndefinedOpcode` (R44). -/
  | undefinedOpcode (w : Word)
  /-- Fewer than two bytes were given; every instruction is two bytes long (R40). -/
  | truncated
  deriving DecidableEq, Repr

/-- Class 0: the whole word is fixed (R45). -/
def decodeClass0 (w : Word) : Except DecodeReject Instr :=
  if w = 0x00E0#16 then .ok .clearScreen
  else if w = 0x00EE#16 then .ok .ret
  else .error (.undefinedOpcode w)

/-- Class 8: the low nibble is the sub-opcode (R45). -/
def decodeClass8 (w : Word) : Except DecodeReject Instr :=
  if fieldN w = 0x0 then .ok (.copy (fieldX w) (fieldY w))
  else if fieldN w = 0x1 then .ok (.or (fieldX w) (fieldY w))
  else if fieldN w = 0x2 then .ok (.and (fieldX w) (fieldY w))
  else if fieldN w = 0x3 then .ok (.xor (fieldX w) (fieldY w))
  else if fieldN w = 0x4 then .ok (.add (fieldX w) (fieldY w))
  else if fieldN w = 0x5 then .ok (.sub (fieldX w) (fieldY w))
  else if fieldN w = 0x6 then .ok (.shiftRight (fieldX w) (fieldY w))
  else if fieldN w = 0x7 then .ok (.subReverse (fieldX w) (fieldY w))
  else if fieldN w = 0xE then .ok (.shiftLeft (fieldX w) (fieldY w))
  else .error (.undefinedOpcode w)

/-- Class E: the low byte is the sub-opcode (R45). -/
def decodeClassE (w : Word) : Except DecodeReject Instr :=
  if fieldKK w = 0x9E#8 then .ok (.skipIfKeyPressed (fieldX w))
  else if fieldKK w = 0xA1#8 then .ok (.skipIfKeyNotPressed (fieldX w))
  else .error (.undefinedOpcode w)

/-- Class F: the low byte is the sub-opcode (R45). -/
def decodeClassF (w : Word) : Except DecodeReject Instr :=
  if fieldKK w = 0x07#8 then .ok (.readDelayTimer (fieldX w))
  else if fieldKK w = 0x0A#8 then .ok (.waitForKey (fieldX w))
  else if fieldKK w = 0x15#8 then .ok (.setDelayTimer (fieldX w))
  else if fieldKK w = 0x18#8 then .ok (.setSoundTimer (fieldX w))
  else if fieldKK w = 0x1E#8 then .ok (.addToIndex (fieldX w))
  else if fieldKK w = 0x29#8 then .ok (.spriteAddress (fieldX w))
  else if fieldKK w = 0x33#8 then .ok (.storeBcd (fieldX w))
  else if fieldKK w = 0x55#8 then .ok (.storeRegisters (fieldX w))
  else if fieldKK w = 0x65#8 then .ok (.loadRegisters (fieldX w))
  else .error (.undefinedOpcode w)

/-- `Decode(w)` (R45): a total function of the word alone; every word R43 has no row for is rejected by name
(R44). Decoding is strict: every bit that is no field has its value in R43 (D4, log 10). The class and
sub-opcode numbers are R43's, most of them PRESUMED by the spec (D1 to D3, log 9). -/
def decodeWord (w : Word) : Except DecodeReject Instr :=
  match fieldClass w with
  | 0x0#4 => decodeClass0 w
  | 0x1#4 => .ok (.jump (fieldNNN w))
  | 0x2#4 => .ok (.call (fieldNNN w))
  | 0x3#4 => .ok (.skipIfEqual (fieldX w) (fieldKK w))
  | 0x4#4 => .ok (.skipIfNotEqual (fieldX w) (fieldKK w))
  | 0x5#4 =>
    if fieldN w = 0 then .ok (.skipIfRegsEqual (fieldX w) (fieldY w)) else .error (.undefinedOpcode w)
  | 0x6#4 => .ok (.loadImmediate (fieldX w) (fieldKK w))
  | 0x7#4 => .ok (.addImmediate (fieldX w) (fieldKK w))
  | 0x8#4 => decodeClass8 w
  | 0x9#4 =>
    if fieldN w = 0 then .ok (.skipIfRegsNotEqual (fieldX w) (fieldY w)) else .error (.undefinedOpcode w)
  | 0xA#4 => .ok (.setIndex (fieldNNN w))
  | 0xB#4 => .ok (.jumpWithOffset (fieldNNN w))
  | 0xC#4 => .ok (.randomize (fieldX w) (fieldKK w))
  | 0xD#4 => .ok (.draw (fieldX w) (fieldY w) (fieldN w))
  | 0xE#4 => decodeClassE w
  | 0xF#4 => decodeClassF w
  | _ => .error (.undefinedOpcode w)

/-- The word two consecutive bytes form: the first is the high byte (R29, R40). -/
def wordOfBytes (hi lo : Byte) : Word := hi ++ lo

/-- The decoder on bytes as they lie in memory: the instruction at their head and the bytes after it. -/
def decodeBytes : List Byte → Except DecodeReject (Instr × List Byte)
  | hi :: lo :: rest =>
    match decodeWord (wordOfBytes hi lo) with
    | .ok i => .ok (i, rest)
    | .error e => .error e
  | _ => .error .truncated

/-! ### The encoder -/

/-- A register number as the four bits of its field (R42). -/
def regBits (r : Fin 16) : BitVec 4 := BitVec.ofNat 4 r.val

/-- Format `NNN` (R41). -/
def formatNNN (cls : BitVec 4) (nnn : Addr12) : Word := cls ++ nnn

/-- Format `XKK` (R41). -/
def formatXKK (cls : BitVec 4) (x : Reg) (kk : Byte) : Word := cls ++ (regBits x ++ kk)

/-- Formats `XY` and `XYN` (R41). -/
def formatXYN (cls : BitVec 4) (x y : Reg) (n : Fin 16) : Word := cls ++ (regBits x ++ (regBits y ++ regBits n))

/-- The word of an instruction, by its row of R43. -/
def encode : Instr → Word
  | .clearScreen => 0x00E0#16
  | .ret => 0x00EE#16
  | .jump nnn => formatNNN 0x1 nnn
  | .call nnn => formatNNN 0x2 nnn
  | .skipIfEqual x kk => formatXKK 0x3 x kk
  | .skipIfNotEqual x kk => formatXKK 0x4 x kk
  | .skipIfRegsEqual x y => formatXYN 0x5 x y 0x0
  | .loadImmediate x kk => formatXKK 0x6 x kk
  | .addImmediate x kk => formatXKK 0x7 x kk
  | .copy x y => formatXYN 0x8 x y 0x0
  | .or x y => formatXYN 0x8 x y 0x1
  | .and x y => formatXYN 0x8 x y 0x2
  | .xor x y => formatXYN 0x8 x y 0x3
  | .add x y => formatXYN 0x8 x y 0x4
  | .sub x y => formatXYN 0x8 x y 0x5
  | .shiftRight x y => formatXYN 0x8 x y 0x6
  | .subReverse x y => formatXYN 0x8 x y 0x7
  | .shiftLeft x y => formatXYN 0x8 x y 0xE
  | .skipIfRegsNotEqual x y => formatXYN 0x9 x y 0x0
  | .setIndex nnn => formatNNN 0xA nnn
  | .jumpWithOffset nnn => formatNNN 0xB nnn
  | .randomize x kk => formatXKK 0xC x kk
  | .draw x y n => formatXYN 0xD x y n
  | .skipIfKeyPressed x => formatXKK 0xE x 0x9E
  | .skipIfKeyNotPressed x => formatXKK 0xE x 0xA1
  | .readDelayTimer x => formatXKK 0xF x 0x07
  | .waitForKey x => formatXKK 0xF x 0x0A
  | .setDelayTimer x => formatXKK 0xF x 0x15
  | .setSoundTimer x => formatXKK 0xF x 0x18
  | .addToIndex x => formatXKK 0xF x 0x1E
  | .spriteAddress x => formatXKK 0xF x 0x29
  | .storeBcd x => formatXKK 0xF x 0x33
  | .storeRegisters x => formatXKK 0xF x 0x55
  | .loadRegisters x => formatXKK 0xF x 0x65

/-- The high byte of a word, which lies at the lower address (R29). -/
def highByte (w : Word) : Byte := w.extractLsb' 8 8

/-- The low byte of a word (R29). -/
def lowByte (w : Word) : Byte := w.extractLsb' 0 8

/-- An instruction's two bytes as they lie in memory, high byte first (R29, R40). -/
def encodeBytes (i : Instr) : List Byte := [highByte (encode i), lowByte (encode i)]

/-! ### The opcode map as data -/

/-- One row of R43: a word `w` selects it when `w AND mask = pat`. -/
structure OpRow where
  mnemonic : String
  pat : Word
  mask : Word
  deriving DecidableEq, Repr

/-- A word selects a row (R43). -/
def OpRow.selects (r : OpRow) (w : Word) : Bool := w &&& r.mask == r.pat

/-- Rows 1 to 9 of R43: classes 0 to 7. -/
def opRows0to7 : List OpRow :=
  [⟨"clear-screen", 0x00E0, 0xFFFF⟩, ⟨"return", 0x00EE, 0xFFFF⟩, ⟨"jump", 0x1000, 0xF000⟩,
   ⟨"call", 0x2000, 0xF000⟩, ⟨"skip-if-equal", 0x3000, 0xF000⟩, ⟨"skip-if-not-equal", 0x4000, 0xF000⟩,
   ⟨"skip-if-regs-equal", 0x5000, 0xF00F⟩, ⟨"load-immediate", 0x6000, 0xF000⟩,
   ⟨"add-immediate", 0x7000, 0xF000⟩]

/-- Rows 10 to 19 of R43: classes 8 and 9. -/
def opRows8to9 : List OpRow :=
  [⟨"copy", 0x8000, 0xF00F⟩, ⟨"or", 0x8001, 0xF00F⟩, ⟨"and", 0x8002, 0xF00F⟩, ⟨"xor", 0x8003, 0xF00F⟩,
   ⟨"add", 0x8004, 0xF00F⟩, ⟨"sub", 0x8005, 0xF00F⟩, ⟨"shift-right", 0x8006, 0xF00F⟩,
   ⟨"sub-reverse", 0x8007, 0xF00F⟩, ⟨"shift-left", 0x800E, 0xF00F⟩,
   ⟨"skip-if-regs-not-equal", 0x9000, 0xF00F⟩]

/-- Rows 20 to 34 of R43: classes A to F. -/
def opRowsAtoF : List OpRow :=
  [⟨"set-index", 0xA000, 0xF000⟩, ⟨"jump-with-offset", 0xB000, 0xF000⟩, ⟨"randomize", 0xC000, 0xF000⟩,
   ⟨"draw", 0xD000, 0xF000⟩, ⟨"skip-if-key-pressed", 0xE09E, 0xF0FF⟩,
   ⟨"skip-if-key-not-pressed", 0xE0A1, 0xF0FF⟩, ⟨"read-delay-timer", 0xF007, 0xF0FF⟩,
   ⟨"wait-for-key", 0xF00A, 0xF0FF⟩, ⟨"set-delay-timer", 0xF015, 0xF0FF⟩,
   ⟨"set-sound-timer", 0xF018, 0xF0FF⟩, ⟨"add-to-index", 0xF01E, 0xF0FF⟩,
   ⟨"sprite-address", 0xF029, 0xF0FF⟩, ⟨"store-BCD", 0xF033, 0xF0FF⟩,
   ⟨"store-registers", 0xF055, 0xF0FF⟩, ⟨"load-registers", 0xF065, 0xF0FF⟩]

/-- The complete opcode map of R43, in its order: 34 rows. -/
def opTable : List OpRow := opRows0to7 ++ opRows8to9 ++ opRowsAtoF

/-- The name R43 gives an instruction. -/
def mnemonicOf : Instr → String
  | .clearScreen => "clear-screen"
  | .ret => "return"
  | .jump _ => "jump"
  | .call _ => "call"
  | .skipIfEqual _ _ => "skip-if-equal"
  | .skipIfNotEqual _ _ => "skip-if-not-equal"
  | .skipIfRegsEqual _ _ => "skip-if-regs-equal"
  | .loadImmediate _ _ => "load-immediate"
  | .addImmediate _ _ => "add-immediate"
  | .copy _ _ => "copy"
  | .or _ _ => "or"
  | .and _ _ => "and"
  | .xor _ _ => "xor"
  | .add _ _ => "add"
  | .sub _ _ => "sub"
  | .shiftRight _ _ => "shift-right"
  | .subReverse _ _ => "sub-reverse"
  | .shiftLeft _ _ => "shift-left"
  | .skipIfRegsNotEqual _ _ => "skip-if-regs-not-equal"
  | .setIndex _ => "set-index"
  | .jumpWithOffset _ => "jump-with-offset"
  | .randomize _ _ => "randomize"
  | .draw _ _ _ => "draw"
  | .skipIfKeyPressed _ => "skip-if-key-pressed"
  | .skipIfKeyNotPressed _ => "skip-if-key-not-pressed"
  | .readDelayTimer _ => "read-delay-timer"
  | .waitForKey _ => "wait-for-key"
  | .setDelayTimer _ => "set-delay-timer"
  | .setSoundTimer _ => "set-sound-timer"
  | .addToIndex _ => "add-to-index"
  | .spriteAddress _ => "sprite-address"
  | .storeBcd _ => "store-BCD"
  | .storeRegisters _ => "store-registers"
  | .loadRegisters _ => "load-registers"

/-- The row of R43 an instruction is an instance of. -/
def opRowOf (i : Instr) : Option OpRow := opTable.find? (fun r => r.mnemonic == mnemonicOf i)

/-! ### The word as spec/opcode_table.json numbers its bits -/

/-- The instruction the decoder reads from an instruction of `nbits` bits `w`; the bits above `nbits` are 0.
Every row of the table is one 16-bit word, laid out high byte first (R29, R40). -/
def decodeTableWord (nbits w : Nat) : Option Instr :=
  match decodeBytes [highByte (BitVec.ofNat 16 (w % 2 ^ nbits)), lowByte (BitVec.ofNat 16 (w % 2 ^ nbits))] with
  | .ok (i, _) => some i
  | .error _ => none

end Sys2Proof
end

