-- ==== Sys2Proof/Machine/State.lean ====
section
/-! DEFINITION. The architectural state as plain data (spec/10_state.md rules R12 to R24), the reasons a step can
stop (spec/60_exceptions.md rule R96), and the state right after reset (R25). -/

namespace Sys2Proof.Machine

/-- Memory `MEM` (R19) as the list of its non-zero bytes, addresses strictly rising; an address that is not
listed holds 0x00, which is what R25 gives every byte outside the image (log 7). -/
abbrev Memory := List Host.Cell

/-- Framebuffer `FB[0..31][0..63]` (R20): 32 rows of 64 pixels, `true` is on. -/
abbrev Framebuffer := Vector (Vector Bool 64) 32

/-- A pixel's place: row 0 is the top row, column 0 the leftmost (R20). -/
abbrev Pixel := Fin 32 × Fin 64

/-- The machine's state: the tuple of R24, and two fields of the model's own (`draws`, `cfg`). -/
structure State where
  /-- General registers `V[0..15]` (R12); `V[15]` is `VF` (R13). -/
  v : Vector Byte 16
  /-- Index register `I` (R14). -/
  idx : Word
  /-- Program counter `pc` (R15). -/
  pc : Word
  /-- Stack pointer `SP`, the count of pushed addresses, legal values 0 to 16 (R16, log 1). -/
  sp : Fin 17
  /-- Return stack `STK[0..15]` (R16); entries at `sp` and above are dead. -/
  stk : Vector Word 16
  /-- Delay timer `DT` (R17). -/
  dt : Byte
  /-- Sound timer `ST` (R18). -/
  st : Byte
  /-- Memory `MEM[0..4095]` (R19). -/
  mem : Memory
  /-- Framebuffer `FB` (R20). -/
  fb : Framebuffer
  /-- Key flags `KEY[0..15]` (R21). -/
  key : Vector Bool 16
  /-- `kw_active`: a `wait-for-key` is pending (R22). -/
  kwActive : Bool
  /-- `kw_latch`: the first key pressed during the wait, if any (R22). -/
  kwLatch : Option KeyNum
  /-- The model's own: how many random draws have been taken (log 3). -/
  draws : Nat
  /-- The model's own: the open parameters of R6, constant (log 2). -/
  cfg : Config
  deriving DecidableEq, Repr

/-- The six error kinds, a closed set (R96). -/
inductive ErrorKind where
  | romTooLarge
  | invalidAddress
  | invalidKey
  | stackOverflow
  | stackUnderflow
  | undefinedOpcode
  deriving DecidableEq, Repr

/-- Why a step failed (R96, R97), with the value the error may carry and the state the failed step left behind
(R99: what it had done before the error stays, `pc` is unchanged; log 4). A fault is the spec's own error
result, so it is safe: the model stops where the machine reports `Err`, and `Fault.left` is where the host may
step on from (R101). -/
inductive Fault where
  /-- `InvalidAddress`: raised by the fetch, `draw`, `store-BCD`, `store-registers` and `load-registers` at the
  first access at 4096 or above (R97). Safe. -/
  | invalidAddress (addr : Nat) (left : State)
  /-- `InvalidKey`: raised by the two key skips on a key number above 0x0F (R97). Safe. -/
  | invalidKey (key : Nat) (left : State)
  /-- `StackOverflow`: raised by `call` with 16 addresses pushed (R97). Safe. -/
  | stackOverflow (left : State)
  /-- `StackUnderflow`: raised by `return` with none pushed (R97). Safe. -/
  | stackUnderflow (left : State)
  /-- `UndefinedOpcode`: raised by decode on a word R43 has no row for (R97). Safe. -/
  | undefinedOpcode (word : Word) (left : State)
  deriving DecidableEq, Repr

/-- The state a failed step leaves (R99). -/
def Fault.left : Fault → State
  | .invalidAddress _ s => s
  | .invalidKey _ s => s
  | .stackOverflow s => s
  | .stackUnderflow s => s
  | .undefinedOpcode _ s => s

/-- The error kind of a failed step (R96). -/
def Fault.kind : Fault → ErrorKind
  | .invalidAddress _ _ => .invalidAddress
  | .invalidKey _ _ => .invalidKey
  | .stackOverflow _ => .stackOverflow
  | .stackUnderflow _ => .stackUnderflow
  | .undefinedOpcode _ _ => .undefinedOpcode

/-- Why an instruction has no meaning. -/
inductive Refusal where
  /-- Raised by `exec` for an instruction that is not modelled; no instruction is left so. Safe. -/
  | notModelled (mnemonic : String)
  deriving DecidableEq, Repr

/-- What a meaning and a step answer. -/
abbrev Result := Host.Outcome State Fault Refusal

/-- The state right after reset: `new` of the empty image with the default parameters (R25, R108). A program's
bytes are placed by `new(bytes)`, `newMachine` in Machine/HostOps.lean (log 6). -/
def State.reset : State :=
  { v := Vector.replicate 16 0x00#8
    idx := 0x0000#16
    pc := 0x0200#16
    sp := 0
    stk := Vector.replicate 16 0x0000#16
    dt := 0x00#8
    st := 0x00#8
    mem := []
    fb := Vector.replicate 32 (Vector.replicate 64 false)
    key := Vector.replicate 16 false
    kwActive := false
    kwLatch := none
    draws := 0
    cfg := Config.default }

end Sys2Proof.Machine
end

