-- ==== Sys2Proof/Machine/Ops.lean ====
section
/-! DEFINITION. The named operations over registers, memory and the return stack, taking an error, and the
fetch (spec/10_state.md rule R16, spec/20_memory.md rules R28, R29, R38, spec/60_exceptions.md rule R99). -/

namespace Sys2Proof.Machine

/-! ### One home for every register: reads and writes -/

/-- `V[x] <- b` (R9, R12). -/
def State.setV (s : State) (x : Reg) (b : Byte) : State := { s with v := s.v.set x.val b x.isLt }

/-- `I <- w` (R14). -/
def State.setIdx (s : State) (w : Word) : State := { s with idx := w }

/-- `pc <- w` (R15). -/
def State.setPc (s : State) (w : Word) : State := { s with pc := w }

/-- `DT <- b` (R17). -/
def State.setDt (s : State) (b : Byte) : State := { s with dt := b }

/-- `ST <- b` (R18). -/
def State.setSt (s : State) (b : Byte) : State := { s with st := b }

/-- The memory as a whole is replaced (R19). -/
def State.setMem (s : State) (m : Memory) : State := { s with mem := m }

/-- The framebuffer as a whole is replaced (R20). -/
def State.setFb (s : State) (f : Framebuffer) : State := { s with fb := f }

/-- `KEY[k] <- p` (R21). -/
def State.setKeyFlag (s : State) (k : KeyNum) (p : Bool) : State := { s with key := s.key.set k.val p k.isLt }

/-- `kw_active <- a`, `kw_latch <- l` (R22). -/
def State.setKeyWait (s : State) (a : Bool) (l : Option KeyNum) : State := { s with kwActive := a, kwLatch := l }

/-- The next random draw is taken (R70, log 3). -/
def State.countDraw (s : State) : State := { s with draws := s.draws + 1 }

/-! ### The program counter (R48): every instruction writes it explicitly and last -/

/-- `pc <- pc + 2` (R48). The sum stays below 65536 for every `pc` a word can be fetched at (R15, log 30). -/
def State.advance (s : State) : State := s.setPc (s.pc + 2#16)

/-- `if c then pc <- pc + 4 else pc <- pc + 2`, the skips (R48, R52). -/
def State.skipIf (s : State) (c : Bool) : State := s.setPc (if c then s.pc + 4#16 else s.pc + 2#16)

/-! ### Taking an error (R99) -/

/-- `raise` (R9, R99): the step ends at once with the error; nothing is saved, nothing is changed by the
delivery itself, and what was done before stays in the state left behind. There is no return from an error
(R101): the host steps again from that state. -/
def raiseError (mk : State → Fault) (s : State) : Result := .fault (mk s)

/-- Statements happen in the order written, and nothing after a `raise` happens (R9). -/
def andThen (r : Result) (f : State → Result) : Result :=
  match r with
  | .next s => f s
  | .fault e => .fault e
  | .refused e => .refused e

/-! ### Memory (R28) -/

/-- The byte at an address; an address that is not listed holds 0x00 (R25). -/
def Memory.read : Memory → Nat → Byte
  | [], _ => 0x00#8
  | (k, b) :: rest, a => if a < k then 0x00#8 else if a = k then b else Memory.read rest a

/-- The byte at an address is replaced, keeping the canonical form: a zero byte is not listed. -/
def Memory.write : Memory → Nat → Byte → Memory
  | [], a, x => if x = 0x00#8 then [] else [(a, x)]
  | (k, b) :: rest, a, x =>
    if a < k then (if x = 0x00#8 then (k, b) :: rest else (a, x) :: (k, b) :: rest)
    else if a = k then (if x = 0x00#8 then rest else (a, x) :: rest)
    else (k, b) :: Memory.write rest a x

/-- The canonical form from address `lo` on. -/
def Memory.wfFrom : Nat → Memory → Bool
  | _, [] => true
  | lo, (a, b) :: rest => decide (lo ≤ a) && decide (a < memSize) && decide (b ≠ 0x00#8) && Memory.wfFrom (a + 1) rest

/-- The canonical form: addresses strictly rising and below 4096, no listed byte equal to 0x00. -/
def Memory.wf (m : Memory) : Bool := Memory.wfFrom 0 m

/-- Bytes placed at consecutive addresses from `a` on, as `new` does (R25, R89); none outside memory. -/
def Memory.place (m : Memory) (a : Nat) : List Byte → Memory
  | [] => m
  | b :: rest => Memory.place (if a < memSize then m.write a b else m) (a + 1) rest

/-- `MemRead(addr, 1)` (R28): `none` where it raises `InvalidAddress`. -/
def memRead (s : State) (addr : Nat) : Option Byte := if addr < memSize then some (s.mem.read addr) else none

/-- `MemWrite(addr, 1, v)` (R28): `none` where it raises `InvalidAddress`, and then nothing is changed. -/
def memWrite (s : State) (addr : Nat) (b : Byte) : Option State :=
  if addr < memSize then some (s.setMem (s.mem.write addr b)) else none

/-- Bytes written one at a time at ascending addresses; the first address out of range ends the step, the
bytes before it stay (R38, D12). -/
def storeBytes (addr : Nat) : List Byte → State → Result
  | [], s => .next s
  | b :: rest, s =>
    match memWrite s addr b with
    | some t => storeBytes (addr + 1) rest t
    | none => raiseError (.invalidAddress addr) s

/-- Registers loaded one at a time from ascending addresses, each written as soon as its byte is read; the
first address out of range ends the step, the registers before it stay loaded (R38, D12). -/
def loadBytes (addr : Nat) : List Reg → State → Result
  | [], s => .next s
  | r :: rest, s =>
    match memRead s addr with
    | some b => loadBytes (addr + 1) rest (s.setV r b)
    | none => raiseError (.invalidAddress addr) s

/-- `n` bytes read at ascending addresses, or the first address out of range (R38, R80). -/
def readRows (s : State) (addr : Nat) : Nat → Except Nat (List Byte)
  | 0 => .ok []
  | n + 1 =>
    match memRead s addr with
    | none => .error addr
    | some b =>
      match readRows s (addr + 1) n with
      | .ok rows => .ok (b :: rows)
      | .error a => .error a

/-! ### The return stack (R16) -/

/-- `Push(v)` (R16): `none` where it raises `StackOverflow`. -/
def push (s : State) (w : Word) : Option State :=
  if h : s.sp.val < 16 then
    some { s with stk := s.stk.set s.sp.val w h, sp := ⟨s.sp.val + 1, by omega⟩ }
  else none

/-- `Pop()` (R16): the value and the state after, or `none` where it raises `StackUnderflow`. The entry is not
erased (D26, log 28). -/
def pop (s : State) : Option (Word × State) :=
  if h : 0 < s.sp.val then
    some (s.stk[s.sp.val - 1]'(by omega), { s with sp := ⟨s.sp.val - 1, by omega⟩ })
  else none

/-! ### Fetch and decode (R29, R45, R90) -/

/-- `Fetch()` (R29): the bytes at `pc` and `pc + 1`, the first the high byte, or the first address out of
range. `pc + 1` is exact; any `pc`, even or odd (R31, D8, log 29). -/
def fetch (s : State) : Except Nat Word :=
  match memRead s s.pc.toNat with
  | none => .error s.pc.toNat
  | some hi =>
    match memRead s (s.pc.toNat + 1) with
    | none => .error (s.pc.toNat + 1)
    | some lo => .ok (wordOfBytes hi lo)

/-- The instruction at `pc`, or the error to raise: that of the fetch or that of the decode (R90, R98: fetch
before decode). Both change no state. -/
def fetchInstr (s : State) : Except (State → Fault) Instr :=
  match fetch s with
  | .error addr => .error (.invalidAddress addr)
  | .ok w =>
    match decodeWord w with
    | .ok i => .ok i
    | .error _ => .error (.undefinedOpcode w)

/-- An instruction word stored at `pc`, where the next step fetches it (R29); a `pc` no word can be fetched
at (0x0FFF and above) leaves the state as it is (log 32). -/
def placeWordAtPc (s : State) (w : Word) : State :=
  if s.pc.toNat + 1 < memSize then
    s.setMem ((s.mem.write s.pc.toNat (highByte w)).write (s.pc.toNat + 1) (lowByte w))
  else s

end Sys2Proof.Machine
end

