-- ==== Sys2Proof/Machine/Operands.lean ====
section
/-! DEFINITION. The operand forms: registers, immediates, effective addresses, register blocks, key numbers,
decimal digits, glyph addresses (spec/30_encoding.md rule R42, spec/42_index_memory.md rule R71). -/

namespace Sys2Proof.Machine

/-- The register operand `V[x]`, always direct (R9, R42). -/
def State.getV (s : State) (x : Reg) : Byte := s.v[x]

/-- `zext_16(nnn)` (R8, R42). -/
def addrOperand (nnn : Addr12) : Word := nnn.setWidth 16

/-- `zext_16(V[x])` (R8). -/
def State.wideV (s : State) (x : Reg) : Word := (s.getV x).setWidth 16

/-- The effective address `I + k`, exact (R71). -/
def effAddr (s : State) (k : Nat) : Nat := s.idx.toNat + k

/-- The operand of `shift-right` and `shift-left`: `V[x]` or `V[y]` by `SHIFT_SRC` (R67, D6). -/
def shiftOperand (s : State) (x y : Reg) : Byte :=
  match s.cfg.shiftSrc with
  | .vx => s.getV x
  | .vy => s.getV y

/-- All sixteen register numbers, ascending. -/
def allRegs : List Reg := [0, 1, 2, 3, 4, 5, 6, 7, 8, 9, 10, 11, 12, 13, 14, 15]

/-- The registers `V[0]` to `V[x]` inclusive, ascending (R76, R77). -/
def regsUpTo (x : Reg) : List Reg := allRegs.take (x.val + 1)

/-- The bytes of `V[0]` to `V[x]` (R76). -/
def blockBytes (s : State) (x : Reg) : List Byte := (regsUpTo x).map s.getV

/-- The three decimal digits of a byte, hundreds first (R75, D13, log 16). -/
def bcdDigits (b : Byte) : List Byte :=
  [BitVec.ofNat 8 (b.toNat / 100), BitVec.ofNat 8 (b.toNat / 10 % 10), BitVec.ofNat 8 (b.toNat % 10)]

/-- The address of the glyph of a digit, `(FONT_BASE + GLYPH_STRIDE * (V[x] AND 0x0F)) mod 65536` (R74, D15,
log 18). -/
def glyphAddr (c : Config) (b : Byte) : Word :=
  BitVec.ofNat 16 (c.fontBase + c.glyphStride * (b &&& 0x0F#8).toNat)

/-- `KeyPressed(k)` on the whole value of a register (R21, R82): `none` where it raises `InvalidKey`. -/
def keyPressed (s : State) (k : Nat) : Option Bool :=
  if h : k < 16 then some (s.key[k]'h) else none

end Sys2Proof.Machine
end

