-- ==== Sys2Proof/Machine/Flags.lean ====
section
/-! DEFINITION. The flag computations and the one operation that writes a result and then the flag
(spec/41_alu.md rules R57, R59; spec/10_state.md rule R13). -/

namespace Sys2Proof.Machine

/-- A Boolean stored into a register: `0x01` for true, `0x00` for false (R8, R57, D9). -/
def flagByte (c : Bool) : Byte := if c then 0x01#8 else 0x00#8

/-- The carry of `a + b`: the exact sum exceeds 255 (R59, R65, D9, log 11). -/
def carryOut (a b : Byte) : Bool := decide (255 < a.toNat + b.toNat)

/-- The inverse of the borrow of `a - b`: `a >= b`, equality included (R59, R66, D9, log 11). -/
def noBorrow (a b : Byte) : Bool := decide (b.toNat ≤ a.toNat)

/-- `(a + b) mod 256` (R59). -/
def addByte (a b : Byte) : Byte := BitVec.ofNat 8 (a.toNat + b.toNat)

/-- `(a - b) mod 256`: `a - b` if `a >= b`, else `a - b + 256` (R59). -/
def subByte (a b : Byte) : Byte := BitVec.ofNat 8 (a.toNat + 256 - b.toNat)

/-- `b >> 1`, logical: 0 enters bit 7 (R8, R67). -/
def shiftRightByte (b : Byte) : Byte := b >>> 1

/-- The bit `shift-right` shifts out, bit 0 (R67, D9, log 11). -/
def bitOutRight (b : Byte) : Bool := b.getLsbD 0

/-- `(b << 1) mod 256`: 0 enters bit 0 (R8, R69). -/
def shiftLeftByte (b : Byte) : Byte := b <<< 1

/-- The bit `shift-left` shifts out, bit 7 (R69, D9, log 11). -/
def bitOutLeft (b : Byte) : Bool := b.getLsbD 7

/-- The result goes to `V[x]` first and the flag to `VF` second, so the flag wins when `x = F`
(R57, D10, log 12). -/
def State.setResultFlag (s : State) (x : Reg) (r : Byte) (c : Bool) : State := (s.setV x r).setV vF (flagByte c)

end Sys2Proof.Machine
end

