-- ==== Sys2Proof/Machine/Flow.lean ====
section
/-! DEFINITION. Control transfer instructions (spec/40_flow.md rules R48 to R56). -/

namespace Sys2Proof.Machine

/-- `return` (R49): `t <- Pop() ; pc <- t`, or `StackUnderflow`. -/
def execReturn (s : State) : Result :=
  match pop s with
  | some (t, s') => .next (s'.setPc t)
  | none => raiseError .stackUnderflow s

/-- `jump nnn` (R50): `pc <- zext_16(nnn)`. -/
def execJump (nnn : Addr12) (s : State) : Result := .next (s.setPc (addrOperand nnn))

/-- `call nnn` (R51): `Push(pc + 2) ; pc <- zext_16(nnn)`, or `StackOverflow`. -/
def execCall (nnn : Addr12) (s : State) : Result :=
  match push s (s.pc + 2#16) with
  | some s' => .next (s'.setPc (addrOperand nnn))
  | none => raiseError .stackOverflow s

/-- `skip-if-equal Vx,kk` (R52). -/
def execSkipIfEqual (x : Reg) (kk : Byte) (s : State) : Result := .next (s.skipIf (s.getV x == kk))

/-- `skip-if-not-equal Vx,kk` (R53). -/
def execSkipIfNotEqual (x : Reg) (kk : Byte) (s : State) : Result := .next (s.skipIf (s.getV x != kk))

/-- `skip-if-regs-equal Vx,Vy` (R54). -/
def execSkipIfRegsEqual (x y : Reg) (s : State) : Result := .next (s.skipIf (s.getV x == s.getV y))

/-- `skip-if-regs-not-equal Vx,Vy` (R55). -/
def execSkipIfRegsNotEqual (x y : Reg) (s : State) : Result := .next (s.skipIf (s.getV x != s.getV y))

/-- `jump-with-offset nnn` (R56): `pc <- zext_16(nnn) + zext_16(V[0])`; the sum is at most 0x10FE and is not
reduced to 12 bits (D21, log 23). -/
def execJumpWithOffset (nnn : Addr12) (s : State) : Result := .next (s.setPc (addrOperand nnn + s.wideV 0))

end Sys2Proof.Machine
end

