-- ==== Sys2Proof/Machine/Alu.lean ====
section
/-! DEFINITION. Register and ALU instructions (spec/41_alu.md rules R57 to R70). Every one reads its sources
first, then writes, and ends with `pc <- pc + 2` (R57). -/

namespace Sys2Proof.Machine

/-- `load-immediate Vx,kk` (R58): `V[x] <- kk`. -/
def execLoadImmediate (x : Reg) (kk : Byte) (s : State) : Result := .next (s.setV x kk).advance

/-- `add-immediate Vx,kk` (R60): `V[x] <- (V[x] + kk) mod 256`, no flag. -/
def execAddImmediate (x : Reg) (kk : Byte) (s : State) : Result := .next (s.setV x (addByte (s.getV x) kk)).advance

/-- `copy Vx,Vy` (R61); `VF` is not written (D7, log 13). -/
def execCopy (x y : Reg) (s : State) : Result := .next (s.setV x (s.getV y)).advance

/-- `or Vx,Vy` (R62); `VF` is not written (D7, log 13). -/
def execOr (x y : Reg) (s : State) : Result := .next (s.setV x (s.getV x ||| s.getV y)).advance

/-- `and Vx,Vy` (R63); `VF` is not written (D7, log 13). -/
def execAnd (x y : Reg) (s : State) : Result := .next (s.setV x (s.getV x &&& s.getV y)).advance

/-- `xor Vx,Vy` (R64); `VF` is not written (D7, log 13). -/
def execXor (x y : Reg) (s : State) : Result := .next (s.setV x (s.getV x ^^^ s.getV y)).advance

/-- `add Vx,Vy` (R65): the sum to `V[x]`, the carry to `VF`. -/
def execAdd (x y : Reg) (s : State) : Result :=
  .next (s.setResultFlag x (addByte (s.getV x) (s.getV y)) (carryOut (s.getV x) (s.getV y))).advance

/-- `sub Vx,Vy` (R66): `V[x] - V[y]` to `V[x]`, the inverse of the borrow to `VF`. -/
def execSub (x y : Reg) (s : State) : Result :=
  .next (s.setResultFlag x (subByte (s.getV x) (s.getV y)) (noBorrow (s.getV x) (s.getV y))).advance

/-- `shift-right Vx,Vy` (R67): the operand shifted right by one to `V[x]`, its bit 0 to `VF`. -/
def execShiftRight (x y : Reg) (s : State) : Result :=
  .next (s.setResultFlag x (shiftRightByte (shiftOperand s x y)) (bitOutRight (shiftOperand s x y))).advance

/-- `sub-reverse Vx,Vy` (R68): `V[y] - V[x]` to `V[x]`, the inverse of the borrow to `VF`. -/
def execSubReverse (x y : Reg) (s : State) : Result :=
  .next (s.setResultFlag x (subByte (s.getV y) (s.getV x)) (noBorrow (s.getV y) (s.getV x))).advance

/-- `shift-left Vx,Vy` (R69): the operand shifted left by one to `V[x]`, its bit 7 to `VF`. -/
def execShiftLeft (x y : Reg) (s : State) : Result :=
  .next (s.setResultFlag x (shiftLeftByte (shiftOperand s x y)) (bitOutLeft (shiftOperand s x y))).advance

/-- `randomize Vx,kk` (R70): `r <- Random() ; V[x] <- r AND kk`. The byte is the free value of this draw, and
the draw is counted so that the next one is independent of it (D17, log 3). -/
def execRandomize (x : Reg) (kk : Byte) (s : State) : Result :=
  .next (s.countDraw.setV x (Config.randomByte s.draws &&& kk)).advance

end Sys2Proof.Machine
end

