-- ==== Sys2Proof/Machine/IndexMemory.lean ====
section
/-! DEFINITION. Index register and memory instructions (spec/42_index_memory.md rules R71 to R77). -/

namespace Sys2Proof.Machine

/-- `set-index nnn` (R72): `I <- zext_16(nnn)`. -/
def execSetIndex (nnn : Addr12) (s : State) : Result := .next (s.setIdx (addrOperand nnn)).advance

/-- `add-to-index Vx` (R73): `I <- (I + zext_16(V[x])) mod 65536`, no flag (D21, log 23). -/
def execAddToIndex (x : Reg) (s : State) : Result := .next (s.setIdx (s.idx + s.wideV x)).advance

/-- `sprite-address Vx` (R74): `I` is the address of the glyph of the low nibble of `V[x]` (D15, log 18). -/
def execSpriteAddress (x : Reg) (s : State) : Result := .next (s.setIdx (glyphAddr s.cfg (s.getV x))).advance

/-- `store-BCD Vx` (R75): the three decimal digits of `V[x]` to `I`, `I + 1`, `I + 2`; `I` is unchanged. -/
def execStoreBcd (x : Reg) (s : State) : Result :=
  andThen (storeBytes (effAddr s 0) (bcdDigits (s.getV x)) s) (fun t => .next t.advance)

/-- `store-registers Vx` (R76): `V[0]` to `V[x]` to consecutive bytes from `I` on; `I` is unchanged (D11,
log 14). -/
def execStoreRegisters (x : Reg) (s : State) : Result :=
  andThen (storeBytes (effAddr s 0) (blockBytes s x) s) (fun t => .next t.advance)

/-- `load-registers Vx` (R77): `V[0]` to `V[x]` from consecutive bytes from `I` on; `I` is unchanged (D11,
log 14). -/
def execLoadRegisters (x : Reg) (s : State) : Result :=
  andThen (loadBytes (effAddr s 0) (regsUpTo x) s) (fun t => .next t.advance)

end Sys2Proof.Machine
end

