-- ==== Sys2Proof/Machine/Display.lean ====
section
/-! DEFINITION. The framebuffer controller and the display instructions (spec/43_display.md rules R78 to R81). -/

namespace Sys2Proof.Machine

/-- The bit of the framebuffer at a pixel, `FB[row][col]` (R20). -/
def pixelAt (f : Framebuffer) (p : Pixel) : Bool := f[p.1][p.2]

/-- `FB[row][col] <- FB[row][col] XOR 1` (R78). -/
def flipPixel (f : Framebuffer) (p : Pixel) : Framebuffer :=
  f.set p.1.val (f[p.1].set p.2.val (!pixelAt f p) p.2.isLt) p.1.isLt

/-- `DisplayClear()` (R78): every pixel off. -/
def displayClear : Framebuffer := Vector.replicate 32 (Vector.replicate 64 false)

/-- The eight columns of a sprite row, left to right (R78). -/
def spriteCols : List Nat := [0, 1, 2, 3, 4, 5, 6, 7]

/-- The pixels of sprite row `r` whose bit is 1: bit 7 is the leftmost pixel, and both coordinates wrap
(R78, D14, log 17). -/
def rowPixels (x0 y0 : Byte) (r : Nat) (b : Byte) : List Pixel :=
  (spriteCols.filter (fun c => b.getLsbD (7 - c))).map
    (fun c => (Fin.ofNat 32 (y0.toNat + r), Fin.ofNat 64 (x0.toNat + c)))

/-- The pixels a sprite inverts, row by row from the top, `r` the number of its first row (R78). -/
def spritePixels (x0 y0 : Byte) : Nat → List Byte → List Pixel
  | _, [] => []
  | r, b :: rest => rowPixels x0 y0 r b ++ spritePixels x0 y0 (r + 1) rest

/-- One pixel of `DisplayDraw`: a pixel that is on is a collision, then the pixel is inverted (R78). -/
def drawPixel (fc : Framebuffer × Bool) (p : Pixel) : Framebuffer × Bool :=
  (flipPixel fc.1 p, fc.2 || pixelAt fc.1 p)

/-- `DisplayDraw(x0, y0, rows)` (R78): the new framebuffer and whether a pixel that was on was turned off. -/
def displayDraw (f : Framebuffer) (x0 y0 : Byte) (rows : List Byte) : Framebuffer × Bool :=
  (spritePixels x0 y0 0 rows).foldl drawPixel (f, false)

/-- `clear-screen` (R79). -/
def execClearScreen (s : State) : Result := .next (s.setFb displayClear).advance

/-- `draw Vx,Vy,n` (R80): all `n` rows are read before the first pixel changes, the collision goes to `VF`,
always and last; a failing read changes nothing (D23, log 25). -/
def execDraw (x y : Reg) (n : Fin 16) (s : State) : Result :=
  match readRows s (effAddr s 0) n.val with
  | .error addr => raiseError (.invalidAddress addr) s
  | .ok rows =>
    .next ((s.setFb (displayDraw s.fb (s.getV x) (s.getV y) rows).1).setV vF
      (flagByte (displayDraw s.fb (s.getV x) (s.getV y) rows).2)).advance

end Sys2Proof.Machine
end

