-- ==== Sys2Proof/Machine/InputTimers.lean ====
section
/-! DEFINITION. Key and timer instructions (spec/44_input_timers.md rules R82 to R88). -/

namespace Sys2Proof.Machine

/-- `skip-if-key-pressed Vx` (R83): the whole of `V[x]` is the key number, above 0x0F is `InvalidKey` (R82). -/
def execSkipIfKeyPressed (x : Reg) (s : State) : Result :=
  match keyPressed s (s.getV x).toNat with
  | some p => .next (s.skipIf p)
  | none => raiseError (.invalidKey (s.getV x).toNat) s

/-- `skip-if-key-not-pressed Vx` (R84). -/
def execSkipIfKeyNotPressed (x : Reg) (s : State) : Result :=
  match keyPressed s (s.getV x).toNat with
  | some p => .next (s.skipIf (!p))
  | none => raiseError (.invalidKey (s.getV x).toNat) s

/-- `read-delay-timer Vx` (R85): `V[x] <- DT`. -/
def execReadDelayTimer (x : Reg) (s : State) : Result := .next (s.setV x s.dt).advance

/-- The key a pending wait has latched, if any (R86). -/
def latchedKey (s : State) : Option KeyNum := if s.kwActive then s.kwLatch else none

/-- `wait-for-key Vx` (R86): with a latched key the instruction completes; otherwise the wait is pending, `pc`
stays, and the step's result is `Waiting` (D18, D19, log 20, 21). -/
def execWaitForKey (x : Reg) (s : State) : Result :=
  match latchedKey s with
  | some k => .next ((s.setV x (BitVec.ofNat 8 k.val)).setKeyWait false none).advance
  | none => .next (s.setKeyWait true s.kwLatch)

/-- `set-delay-timer Vx` (R87): `DT <- V[x]`. -/
def execSetDelayTimer (x : Reg) (s : State) : Result := .next (s.setDt (s.getV x)).advance

/-- `set-sound-timer Vx` (R88): `ST <- V[x]`. -/
def execSetSoundTimer (x : Reg) (s : State) : Result := .next (s.setSt (s.getV x)).advance

end Sys2Proof.Machine
end

