-- ==== Sys2Proof/Machine/Step.lean ====
section
/-! DEFINITION. One step: fetch, decode, execute (spec/45_host_operations.md rule R90), and the placing of one
instruction word where the next step fetches it. -/

namespace Sys2Proof.Machine

/-- `step()` (R90): exactly one instruction, any failure passed on unchanged. `Ok` and `Waiting` are both a next
state (R10, log 21); `hostStep` in Machine/HostOps.lean tells them apart. -/
def step (s : State) : Host.Outcome State Fault Refusal :=
  match fetchInstr s with
  | .error mk => raiseError mk s
  | .ok i => exec i s

/-- `s` with an instruction of `nbits` bits `w` stored where the next step fetches it; a program is placed by
`new(bytes)` (R89), for which this stands (log 6). -/
def State.withFetchWord (s : State) (nbits w : Nat) : State := placeWordAtPc s (BitVec.ofNat 16 (w % 2 ^ nbits))

end Sys2Proof.Machine
end

