-- ==== Sys2Proof/Machine/HostOps.lean ====
section
/-! DEFINITION. The host's operations, each an atomic event between steps, and an execution as a sequence of
events (spec/45_host_operations.md rules R89 to R95, spec/00_scope.md rules R10, R11). -/

namespace Sys2Proof.Machine

/-- The number of an error kind, in the source's order (R96, D20, log 22). -/
def errorCode : ErrorKind → Nat
  | .romTooLarge => 0
  | .invalidAddress => 1
  | .invalidKey => 2
  | .stackOverflow => 3
  | .stackUnderflow => 4
  | .undefinedOpcode => 5

/-- The memory `new` builds: `FONT_IMAGE` at `FONT_BASE`, the image at 0x200, every other byte 0x00 (R25). -/
def imageMemory (cfg : Config) (bytes : List Byte) : Memory :=
  (Memory.place [] cfg.fontBase cfg.fontImage).place progBase bytes

/-- `new(bytes)` (R89), the only reset (R108): the state of R25, or `RomTooLarge` and no machine. -/
def newMachine (cfg : Config) (bytes : List Byte) : Except ErrorKind State :=
  if imageFits bytes then .ok { State.reset with mem := imageMemory cfg bytes, cfg := cfg }
  else .error .romTooLarge

/-- The result of a step as the host sees it (R10). -/
inductive StepResult where
  | ok
  | waiting
  | err (kind : ErrorKind)
  deriving DecidableEq, Repr

/-- The instruction at `pc` is a `wait-for-key`. -/
def waitAtPc (s : State) : Bool :=
  match fetchInstr s with
  | .ok (.waitForKey _) => true
  | _ => false

/-- The next step returns `Waiting`: the instruction at `pc` is `wait-for-key` and no key is latched
(R10, R86). -/
def willWait (s : State) : Bool := waitAtPc s && (latchedKey s).isNone

/-- `step()` as the host's event (R90): the state after, also after a failed step (R99, R101: the machine is
not latched and the host may step again), and the result. No instruction is refused, so the last arm is
never reached. -/
def hostStep (s : State) : State × StepResult :=
  match step s with
  | .next t => (t, if willWait s then .waiting else .ok)
  | .fault e => (e.left, .err e.kind)
  | .refused _ => (s, .err .undefinedOpcode)

/-- A timer decremented by 1, floored at 0 (R91). -/
def tickTimer (b : Byte) : Byte := if 0 < b.toNat then b - 1 else b

/-- `tickTimers()` (R91). -/
def tickTimers (s : State) : State := (s.setDt (tickTimer s.dt)).setSt (tickTimer s.st)

/-- `setKey(key, pressed)` (R92): while a wait is pending with an empty latch, a key that goes from released to
pressed is latched; then the key's flag is set (D18, log 20). -/
def setKey (key : Nat) (pressed : Bool) (s : State) : Except ErrorKind State :=
  if h : key < 16 then
    if pressed && !s.key[key]'h && s.kwActive && s.kwLatch.isNone then
      .ok ((s.setKeyWait s.kwActive (some ⟨key, h⟩)).setKeyFlag ⟨key, h⟩ pressed)
    else .ok (s.setKeyFlag ⟨key, h⟩ pressed)
  else .error .invalidKey

/-- `isPressed(key)` (R93): the same query the key skips use. -/
def isPressed (key : Nat) (s : State) : Except ErrorKind Bool :=
  match keyPressed s key with
  | some p => .ok p
  | none => .error .invalidKey

/-- `snapshot()` (R94): all 2048 pixels in row-major order. -/
def snapshot (s : State) : List Bool := s.fb.toList.flatMap (fun row => row.toList)

/-- `readDelayTimer()` (R95). -/
def readDelayTimer (s : State) : Byte := s.dt

/-- `readSoundTimer()` (R95). -/
def readSoundTimer (s : State) : Byte := s.st

/-- The events that act on an existing machine (R11). -/
inductive Event where
  | step
  | tickTimers
  | setKey (key : Nat) (pressed : Bool)
  | isPressed (key : Nat)
  | snapshot
  | readDelayTimer
  | readSoundTimer
  deriving DecidableEq, Repr

/-- What an event answers to the host. -/
inductive EventResult where
  | stepped (r : StepResult)
  | done
  | failed (kind : ErrorKind)
  | level (p : Bool)
  | pixels (ps : List Bool)
  | timer (b : Byte)
  deriving DecidableEq, Repr

/-- One event: the state after it and what the host gets (R11). A failed host call changes nothing (R92, R93). -/
def applyEvent (e : Event) (s : State) : State × EventResult :=
  match e with
  | .step => ((hostStep s).1, .stepped (hostStep s).2)
  | .tickTimers => (tickTimers s, .done)
  | .setKey key pressed =>
    match setKey key pressed s with
    | .ok t => (t, .done)
    | .error k => (s, .failed k)
  | .isPressed key =>
    match isPressed key s with
    | .ok p => (s, .level p)
    | .error k => (s, .failed k)
  | .snapshot => (s, .pixels (snapshot s))
  | .readDelayTimer => (s, .timer (readDelayTimer s))
  | .readSoundTimer => (s, .timer (readSoundTimer s))

/-- An execution: events applied one after another (R11); the state after the last. -/
def runEvents : List Event → State → State
  | [], s => s
  | e :: rest, s => runEvents rest (applyEvent e s).1

/-- The results of an execution's events, in order (R11). -/
def eventResults : List Event → State → List EventResult
  | [], _ => []
  | e :: rest, s => (applyEvent e s).2 :: eventResults rest (applyEvent e s).1

end Sys2Proof.Machine
end

