-- ==== Sys2Proof/Safety.lean ====
section
/-! DEFINITION. What counts as a safe run, the natural stopping points (spec/70_reset_and_hazards.md rule R115)
and the machine's invariant, in the terms claims use. -/

namespace Sys2Proof.Machine

/-- An execution in which no step returned `Err` (R101, D22: a run that contains one is not successful). -/
def cleanRun (es : List Event) (s : State) : Bool :=
  (eventResults es s).all fun r =>
    match r with
    | .stepped (.err _) => false
    | _ => true

/-- Stopping point (a) of R115: the instruction at `pc` is `jump pc`. -/
def atSelfJump (s : State) : Bool :=
  match fetchInstr s with
  | .ok (.jump nnn) => addrOperand nnn == s.pc
  | _ => false

/-- Stopping point (b) of R115: the next step returns an error. -/
def willFail (s : State) : Bool :=
  match step s with
  | .fault _ => true
  | _ => false

/-- Stopping point (c) of R115 is `willWait`: it lasts until the host reports a key press. -/
def waitsForHost (s : State) : Bool := willWait s

/-- The largest value any rule can write to `pc` (R15). -/
abbrev pcMax : Nat := 0x10FE

/-- Live return addresses are at most 0x1000, the address after a `call` at 0x0FFE (R49, R51). -/
abbrev liveReturnsInRange (s : State) : Prop := ∀ k : Fin 16, k.val < s.sp.val → s.stk[k].toNat ≤ 0x1000

/-- The machine's invariant: memory is in its canonical form inside the address space; `pc` never exceeds
0x10FE (R15); live return addresses are at most 0x1000 (R49); the latch is filled only during a wait (R22);
during a wait the instruction at `pc` is a `wait-for-key` (R86, R107). -/
abbrev State.inv (s : State) : Prop :=
  s.mem.wf = true ∧ s.pc.toNat ≤ pcMax ∧ liveReturnsInRange s ∧
  (s.kwLatch ≠ none → s.kwActive = true) ∧ (s.kwActive = true → waitAtPc s = true)

end Sys2Proof.Machine
end

