-- ==== Sys2Proof/Certificates/Slice0/Obligations.lean ====
section
/-! DEFINITION. The statements for the provers, from the numbered rules of spec/. Each docstring names the rules
or sections it formalises and, where a clause rests on a choice (a decision of the spec's own or the model's),
the log entry of that choice. -/

namespace Sys2Proof.Claims

open Sys2Proof.Machine

/-! ### Words the statements share -/

/-- From `s` to `t` only general registers and `pc` may differ. -/
abbrev onlyRegsPc (s t : State) : Prop := t = { s with v := t.v, pc := t.pc }

/-- All general registers are equal but `x`. -/
abbrev regsEqBut (s t : State) (x : Reg) : Prop := ∀ r : Reg, r ≠ x → t.v[r] = s.v[r]

/-- All general registers are equal but `x` and `VF`. -/
abbrev regsEqButF (s t : State) (x : Reg) : Prop := ∀ r : Reg, r ≠ x → r ≠ vF → t.v[r] = s.v[r]

/-- What a flag-writing ALU instruction leaves (R57): `VF` holds the flag, `V[x]` the result unless `x = F`, no
other register changes, `pc` is 2 further, nothing else changes. -/
abbrev flaggedResult (s t : State) (x : Reg) (r : Nat) (f : Prop) : Prop :=
  (f → t.v[vF] = 0x01#8) ∧ (¬f → t.v[vF] = 0x00#8) ∧ (x ≠ vF → t.v[x].toNat = r) ∧
  regsEqButF s t x ∧ t.pc = s.pc + 2 ∧ onlyRegsPc s t

/-- The sprite of `n` rows at `I`, drawn at `(V[x], V[y])`, has a 1 bit on pixel `p` (R78): bit 7 of a row is its
leftmost pixel, every coordinate wraps. -/
def spriteCovers (s : State) (x y : Reg) (n : Nat) (p : Pixel) : Prop :=
  ∃ r c : Nat, r < n ∧ c < 8 ∧ (s.mem.read (s.idx.toNat + r)).getLsbD (7 - c) = true ∧
    p.1.val = (s.v[y].toNat + r) % 32 ∧ p.2.val = (s.v[x].toNat + c) % 64

/-- The error an instruction raises when executed, by the causes R97 lists; `none` where it cannot fail. -/
def expectedError (i : Instr) (s : State) : Option ErrorKind :=
  match i with
  | .ret => if s.sp.val = 0 then some .stackUnderflow else none
  | .call _ => if s.sp.val = 16 then some .stackOverflow else none
  | .draw _ _ n => if 1 ≤ n.val ∧ 4096 ≤ s.idx.toNat + n.val - 1 then some .invalidAddress else none
  | .storeBcd _ => if 4096 ≤ s.idx.toNat + 2 then some .invalidAddress else none
  | .storeRegisters x => if 4096 ≤ s.idx.toNat + x.val then some .invalidAddress else none
  | .loadRegisters x => if 4096 ≤ s.idx.toNat + x.val then some .invalidAddress else none
  | .skipIfKeyPressed x => if 0x0F < s.v[x].toNat then some .invalidKey else none
  | .skipIfKeyNotPressed x => if 0x0F < s.v[x].toNat then some .invalidKey else none
  | _ => none

/-- The error of a step, by R97 and in the order of R98: fetch, decode, execute. -/
def expectedStepError (s : State) : Option ErrorKind :=
  if 0x0FFF ≤ s.pc.toNat then some .invalidAddress
  else
    match decodeWord (wordOfBytes (s.mem.read s.pc.toNat) (s.mem.read (s.pc.toNat + 1))) with
    | .error _ => some .undefinedOpcode
    | .ok i => expectedError i s

/-- The registers an instruction names as destination, `VF` of the six flag writers included (R12, R13). -/
def writesReg (i : Instr) (r : Reg) : Prop :=
  match i with
  | .loadImmediate x _ => r = x
  | .addImmediate x _ => r = x
  | .copy x _ => r = x
  | .or x _ => r = x
  | .and x _ => r = x
  | .xor x _ => r = x
  | .add x _ => r = x ∨ r = vF
  | .sub x _ => r = x ∨ r = vF
  | .shiftRight x _ => r = x ∨ r = vF
  | .subReverse x _ => r = x ∨ r = vF
  | .shiftLeft x _ => r = x ∨ r = vF
  | .randomize x _ => r = x
  | .draw _ _ _ => r = vF
  | .readDelayTimer x => r = x
  | .waitForKey x => r = x
  | .loadRegisters x => r.val ≤ x.val
  | _ => False

/-- The addresses an instruction stores to: `I` to `I + 2` for `store-BCD`, `I` to `I + x` for
`store-registers` (R75, R76), none for any other (R19). -/
def storesTo (i : Instr) (s : State) (a : Nat) : Prop :=
  match i with
  | .storeBcd _ => effAddr s 0 ≤ a ∧ a ≤ effAddr s 2
  | .storeRegisters x => effAddr s 0 ≤ a ∧ a ≤ effAddr s x.val
  | _ => False

/-- The instruction at `pc` is `store-BCD` or `store-registers`. -/
def storeAtPc (s : State) : Prop :=
  (∃ x, fetchInstr s = .ok (.storeBcd x)) ∨ (∃ x, fetchInstr s = .ok (.storeRegisters x))

/-- Values pushed one after another, the first of the list first; `none` if one push fails. -/
def pushAll : List Word → State → Option State
  | [], s => some s
  | w :: ws, s =>
    match push s w with
    | some t => pushAll ws t
    | none => none

/-- `n` pops, the values in the order popped; `none` if one pop fails. -/
def popAll : Nat → State → Option (List Word × State)
  | 0, s => some ([], s)
  | n + 1, s =>
    match pop s with
    | none => none
    | some (w, t) =>
      match popAll n t with
      | none => none
      | some (ws, u) => some (w :: ws, u)

/-- Two outcomes of the same shape whose states are related by `R`, faults of one kind. -/
def outcomesRelated (R : State → State → Prop) (a b : Result) : Prop :=
  match a, b with
  | .next t, .next u => R t u
  | .fault e, .fault f => e.kind = f.kind ∧ R e.left f.left
  | _, _ => False

/-- Two states that differ in `ST` only. -/
def eqButSoundTimer (s u : State) : Prop := u = { s with st := u.st }

/-- Two states that differ in dead stack entries only (R16). -/
def eqButDeadStack (s u : State) : Prop :=
  u = { s with stk := u.stk } ∧ ∀ k : Fin 16, k.val < s.sp.val → u.stk[k] = s.stk[k]

/-- An event that reports no key press. -/
def noKeyPress : Event → Prop
  | .setKey _ pressed => pressed = false
  | _ => True

end Sys2Proof.Claims

open Sys2Proof Sys2Proof.Machine Sys2Proof.Claims

/-! ### Encoding -/

/-- Decoding the word of an instruction gives the instruction back, for all 34 and every operand (spec/30_encoding.md
R45, last sentence, and R47); the bytes in memory order likewise, and the bytes after them are left. The opcode
numbers are the spec's own decisions D1 to D3 (log 9). -/
def Obligations.DecodeInvertsEncode : Prop :=
  ∀ (i : Instr) (rest : List Byte),
    decodeWord (encode i) = .ok i ∧ decodeBytes (encodeBytes i ++ rest) = .ok (i, rest)

/-- Re-assembling a decoded word's fields gives the word back (spec/30_encoding.md R45, last sentence). -/
def Obligations.EncodeInvertsDecode : Prop :=
  ∀ (w : Word) (i : Instr), decodeWord w = .ok i → encode i = w

/-- A word decodes exactly when it selects a row of the opcode map R43 (as data, `opTable`); any other word is
rejected by name (spec/30_encoding.md R43, R44). -/
def Obligations.WordsWithoutRowRejected : Prop :=
  ∀ w : Word,
    ((∃ i, decodeWord w = .ok i) ↔ ∃ r ∈ opTable, r.selects w = true) ∧
    (decodeWord w = .error (.undefinedOpcode w) ↔ ∀ r ∈ opTable, r.selects w = false)

/-- The undefined words are exactly the six groups of the table in spec/30_encoding.md section 3; classes 1, 2, 3,
4, 6, 7, A, B, C, D have none. Strict decoding is decision D4 (log 10). -/
def Obligations.UndefinedWordsListed : Prop :=
  ∀ w : Word,
    decodeWord w = .error (.undefinedOpcode w) ↔
      (w.toNat / 4096 = 0x0 ∧ w.toNat ≠ 0x00E0 ∧ w.toNat ≠ 0x00EE) ∨
      (w.toNat / 4096 = 0x5 ∧ w.toNat % 16 ≠ 0) ∨
      (w.toNat / 4096 = 0x8 ∧ w.toNat % 16 ∈ [0x8, 0x9, 0xA, 0xB, 0xC, 0xD, 0xF]) ∨
      (w.toNat / 4096 = 0x9 ∧ w.toNat % 16 ≠ 0) ∨
      (w.toNat / 4096 = 0xE ∧ w.toNat % 256 ∉ [0x9E, 0xA1]) ∨
      (w.toNat / 4096 = 0xF ∧ w.toNat % 256 ∉ [0x07, 0x0A, 0x15, 0x18, 0x1E, 0x29, 0x33, 0x55, 0x65])

/-- Every instruction's word selects its own row of the opcode map and no other: the rows are pairwise disjoint on
the words that encode instructions (spec/30_encoding.md R43). -/
def Obligations.EncodingSelectsItsRowOnly : Prop :=
  ∀ i : Instr, ∃ r ∈ opTable, r.mnemonic = mnemonicOf i ∧ r.selects (encode i) = true ∧
    ∀ q ∈ opTable, q.selects (encode i) = true → q = r

/-- A few words of every family decode to the instruction the spec names (spec/95_test_vectors.md section 2.1). The
class numbers and sub-opcodes of these words are the spec's own decisions D1 to D3 (log 9, PRESUMED). -/
def Obligations.ListedWordsDecode : Prop :=
  decodeWord 0x00E0 = .ok .clearScreen ∧ decodeWord 0x00EE = .ok .ret ∧
  decodeWord 0x2ABC = .ok (.call 0xABC) ∧ decodeWord 0x3A7F = .ok (.skipIfEqual 0xA 0x7F) ∧
  decodeWord 0x6005 = .ok (.loadImmediate 0x0 0x05) ∧ decodeWord 0x8126 = .ok (.shiftRight 0x1 0x2) ∧
  decodeWord 0xA123 = .ok (.setIndex 0x123) ∧ decodeWord 0xD7A3 = .ok (.draw 0x7 0xA 0x3) ∧
  decodeWord 0xE19E = .ok (.skipIfKeyPressed 0x1) ∧ decodeWord 0xF10A = .ok (.waitForKey 0x1) ∧
  decodeWord 0xFF65 = .ok (.loadRegisters 0xF) ∧ decodeWord 0x5FF1 = .error (.undefinedOpcode 0x5FF1)

/-! ### The step -/

/-- `fetch` (spec/20_memory.md section 2): the bytes at `pc` and `pc + 1`, high byte first, at every `pc`, even or odd
(decision D8, log 29); it fails, and the step with `InvalidAddress` and nothing changed, if either byte lies outside
memory, `pc` checked first. -/
def Obligations.FetchBigEndianBounded : Prop :=
  ∀ s : State,
    (s.pc.toNat + 1 < 4096 → ∃ w hi lo, fetch s = .ok w ∧ memRead s s.pc.toNat = some hi ∧
      memRead s (s.pc.toNat + 1) = some lo ∧ w.toNat = hi.toNat * 256 + lo.toNat) ∧
    (s.pc.toNat = 4095 → step s = .fault (.invalidAddress 4096 s)) ∧
    (4096 ≤ s.pc.toNat → step s = .fault (.invalidAddress s.pc.toNat s))

/-- A step runs the decoded instruction (spec/45_host_operations.md R90): when the bytes at `pc` are those of
instruction `i`, the step is `exec i` of the same state, and nothing is done around it. -/
def Obligations.StepRunsDecodedInstruction : Prop :=
  ∀ (s : State) (hi lo : Byte) (i : Instr) (rest : List Byte),
    memRead s s.pc.toNat = some hi → memRead s (s.pc.toNat + 1) = some lo →
    decodeBytes (hi :: lo :: rest) = .ok (i, rest) → step s = exec i s

/-- An undefined word ends the step with `UndefinedOpcode` and changes no state (spec/30_encoding.md section 3,
spec/60_exceptions.md section 3); strict decoding is decision D4 (log 10), the fault that carries the state log 4. -/
def Obligations.UndefinedOpcodeChangesNothing : Prop :=
  ∀ (s : State) (w : Word), fetch s = .ok w → (∀ r ∈ opTable, r.selects w = false) →
    step s = .fault (.undefinedOpcode w s)

/-- The errors of a step are exactly those of spec/60_exceptions.md section 1, in the order of its section 2, and no
instruction is refused; strict decoding is decision D4 (log 10), an error as a fault log 4. -/
def Obligations.StepErrorsExactly : Prop :=
  ∀ s : State,
    (expectedStepError s = none → ∃ t, step s = .next t) ∧
    (∀ k, expectedStepError s = some k → ∃ e, step s = .fault e ∧ e.kind = k)

/-! ### Memory and stack -/

/-- The memory primitives (spec/20_memory.md section 1): an access at 4096 or above fails and changes nothing, one below succeeds at that
very address; a byte written is the byte read there next, and no other byte changes. -/
def Obligations.MemoryAccessLaws : Prop :=
  ∀ (s : State) (a : Nat) (b : Byte), s.mem.wf = true →
    (4096 ≤ a → memRead s a = none ∧ memWrite s a b = none) ∧
    (a < 4096 → ∃ t c, memRead s a = some c ∧ memWrite s a b = some t ∧ memRead t a = some b ∧
      (∀ a', a' ≠ a → memRead t a' = memRead s a') ∧ t = { s with mem := t.mem })

/-- The return stack is last in, first out (spec/10_state.md section 2, `Push`, `Pop` and the property quoted
there): what is pushed comes back in reverse order and the stack pointer with it, a push at 16 and a pop at 0
fail; only `SP` and the stack change. -/
def Obligations.ReturnStackIsLifo : Prop :=
  (∀ (s : State) (ws : List Word), s.sp.val + ws.length ≤ 16 →
    ∃ t u, pushAll ws s = some t ∧ t.sp.val = s.sp.val + ws.length ∧ t = { s with stk := t.stk, sp := t.sp } ∧
      popAll ws.length t = some (ws.reverse, u) ∧ u = { t with sp := s.sp }) ∧
  (∀ (s : State) (w : Word), s.sp.val = 16 → push s w = none) ∧
  (∀ s : State, s.sp.val = 0 → pop s = none)

/-! ### Control transfer -/

/-- `jump nnn` (R50): `pc` is `nnn` zero-extended, and nothing else changes. -/
def Obligations.JumpSetsPc : Prop :=
  ∀ (nnn : Addr12) (s : State), ∃ t, exec (.jump nnn) s = .next t ∧
    t.pc.toNat = nnn.toNat ∧ t = { s with pc := t.pc }

/-- `call nnn` (R51): with fewer than 16 addresses pushed, `pc + 2` goes on the stack and `pc` is `nnn`; with 16,
`StackOverflow` and nothing changes. -/
def Obligations.CallPushesReturnAddress : Prop :=
  ∀ (nnn : Addr12) (s : State),
    (s.sp.val < 16 → ∃ t, exec (.call nnn) s = .next t ∧ t.pc.toNat = nnn.toNat ∧ t.sp.val = s.sp.val + 1 ∧
      (∀ k : Fin 16, k.val = s.sp.val → t.stk[k] = s.pc + 2) ∧
      (∀ k : Fin 16, k.val ≠ s.sp.val → t.stk[k] = s.stk[k]) ∧
      t = { s with stk := t.stk, sp := t.sp, pc := t.pc }) ∧
    (s.sp.val = 16 → exec (.call nnn) s = .fault (.stackOverflow s))

/-- `return` (R49): the most recent return address goes to `pc`, with no further advance; the entry stays as dead
data; with none pushed, `StackUnderflow` and nothing changes. -/
def Obligations.ReturnPopsPc : Prop :=
  ∀ s : State,
    (0 < s.sp.val → ∃ t, exec .ret s = .next t ∧ t.sp.val + 1 = s.sp.val ∧
      (∀ k : Fin 16, k.val + 1 = s.sp.val → t.pc = s.stk[k]) ∧ t = { s with sp := t.sp, pc := t.pc }) ∧
    (s.sp.val = 0 → exec .ret s = .fault (.stackUnderflow s))

/-- The four register and immediate skips (R52 to R55): `pc` is 4 further when the condition holds, else 2, and
nothing else changes. -/
def Obligations.SkipsAdvanceByTwoOrFour : Prop :=
  ∀ (x y : Reg) (kk : Byte) (s : State),
    exec (.skipIfEqual x kk) s = .next { s with pc := if s.v[x].toNat = kk.toNat then s.pc + 4 else s.pc + 2 } ∧
    exec (.skipIfNotEqual x kk) s = .next { s with pc := if s.v[x].toNat = kk.toNat then s.pc + 2 else s.pc + 4 } ∧
    exec (.skipIfRegsEqual x y) s = .next { s with pc := if s.v[x].toNat = s.v[y].toNat then s.pc + 4 else s.pc + 2 } ∧
    exec (.skipIfRegsNotEqual x y) s =
      .next { s with pc := if s.v[x].toNat = s.v[y].toNat then s.pc + 2 else s.pc + 4 }

/-- `jump-with-offset nnn` (spec/40_flow.md): `pc` is the exact sum `nnn + V[0]`, not reduced to 12 bits (decision
D21, log 23), and nothing else changes. -/
def Obligations.JumpWithOffsetIsExact : Prop :=
  ∀ (nnn : Addr12) (s : State), ∃ t, exec (.jumpWithOffset nnn) s = .next t ∧
    t.pc.toNat = nnn.toNat + (s.v[(0 : Fin 16)]).toNat ∧ t = { s with pc := t.pc }

/-! ### Registers and ALU -/

/-- `load-immediate Vx,kk` (R58). -/
def Obligations.LoadImmediateWritesByte : Prop :=
  ∀ (x : Reg) (kk : Byte) (s : State), ∃ t, exec (.loadImmediate x kk) s = .next t ∧
    t.v[x] = kk ∧ regsEqBut s t x ∧ t.pc = s.pc + 2 ∧ onlyRegsPc s t

/-- `add-immediate Vx,kk` (R60): the sum modulo 256, and no flag: `VF` changes only as the destination. -/
def Obligations.AddImmediateWritesNoFlag : Prop :=
  ∀ (x : Reg) (kk : Byte) (s : State), ∃ t, exec (.addImmediate x kk) s = .next t ∧
    t.v[x].toNat = (s.v[x].toNat + kk.toNat) % 256 ∧ regsEqBut s t x ∧ t.pc = s.pc + 2 ∧ onlyRegsPc s t

/-- `copy`, `or`, `and`, `xor` (spec/41_alu.md): bit by bit into `V[x]`; `VF` is not written, which is decision D7
(log 13). -/
def Obligations.BitwiseOpsLeaveFlag : Prop :=
  ∀ (x y : Reg) (s : State), ∃ c o a e,
    exec (.copy x y) s = .next c ∧ exec (.or x y) s = .next o ∧
    exec (.and x y) s = .next a ∧ exec (.xor x y) s = .next e ∧
    c.v[x] = s.v[y] ∧
    (∀ k < 8, (o.v[x]).getLsbD k = (s.v[x].getLsbD k || s.v[y].getLsbD k)) ∧
    (∀ k < 8, (a.v[x]).getLsbD k = (s.v[x].getLsbD k && s.v[y].getLsbD k)) ∧
    (∀ k < 8, (e.v[x]).getLsbD k = (s.v[x].getLsbD k != s.v[y].getLsbD k)) ∧
    (∀ t ∈ [c, o, a, e], regsEqBut s t x ∧ t.pc = s.pc + 2 ∧ onlyRegsPc s t)

/-- `add Vx,Vy` (spec/41_alu.md): the sum modulo 256 and the carry in `VF`. The flag's value is decision D9 (log 11),
its winning over the result when `x = F` decision D10 (log 12). -/
def Obligations.AddWritesSumAndCarry : Prop :=
  ∀ (x y : Reg) (s : State), ∃ t, exec (.add x y) s = .next t ∧
    flaggedResult s t x ((s.v[x].toNat + s.v[y].toNat) % 256) (255 < s.v[x].toNat + s.v[y].toNat)

/-- `sub` and `sub-reverse` (spec/41_alu.md): the difference modulo 256 and the inverse of the borrow in `VF`, set on
equality (decision D9, log 11; D10, log 12). -/
def Obligations.SubWritesDifferenceAndNoBorrow : Prop :=
  ∀ (x y : Reg) (s : State), ∃ t u, exec (.sub x y) s = .next t ∧ exec (.subReverse x y) s = .next u ∧
    flaggedResult s t x
      (if s.v[y].toNat ≤ s.v[x].toNat then s.v[x].toNat - s.v[y].toNat else s.v[x].toNat + 256 - s.v[y].toNat)
      (s.v[y].toNat ≤ s.v[x].toNat) ∧
    flaggedResult s u x
      (if s.v[x].toNat ≤ s.v[y].toNat then s.v[y].toNat - s.v[x].toNat else s.v[y].toNat + 256 - s.v[x].toNat)
      (s.v[x].toNat ≤ s.v[y].toNat)

/-- `shift-right` and `shift-left` (spec/41_alu.md), for both values of the parameter `SHIFT_SRC` (decision D6, log 8):
one position, logical, the bit shifted out in `VF` (decision D9, log 11; D10, log 12). -/
def Obligations.ShiftsFollowParameter : Prop :=
  ∀ (x y : Reg) (s : State) (b : Byte),
    (s.cfg.shiftSrc = .vx ∧ b = s.v[x] ∨ s.cfg.shiftSrc = .vy ∧ b = s.v[y]) →
    ∃ t u, exec (.shiftRight x y) s = .next t ∧ exec (.shiftLeft x y) s = .next u ∧
      flaggedResult s t x (b.toNat / 2) (b.toNat % 2 = 1) ∧
      flaggedResult s u x (b.toNat * 2 % 256) (128 ≤ b.toNat)

/-- `randomize Vx,kk` (spec/41_alu.md): the draw AND `kk`, so no bit outside `kk` is ever set; the next execution takes
another draw. The draw is a free value (decision D17, log 3): this holds whatever it is. -/
def Obligations.RandomizeMasksTheDraw : Prop :=
  ∀ (x : Reg) (kk : Byte) (s : State), ∃ t, exec (.randomize x kk) s = .next t ∧
    (∀ k < 8, (t.v[x]).getLsbD k = ((Config.randomByte s.draws).getLsbD k && kk.getLsbD k)) ∧
    regsEqBut s t x ∧ t.pc = s.pc + 2 ∧ t.draws = s.draws + 1 ∧
    t = { s with v := t.v, pc := t.pc, draws := t.draws }

/-! ### Index register and memory -/

/-- `set-index nnn` (R72): `I` is `nnn` zero-extended; any `nnn`, the address is not checked. -/
def Obligations.SetIndexLoadsAddress : Prop :=
  ∀ (nnn : Addr12) (s : State), ∃ t, exec (.setIndex nnn) s = .next t ∧
    t.idx.toNat = nnn.toNat ∧ t.pc = s.pc + 2 ∧ t = { s with idx := t.idx, pc := t.pc }

/-- `add-to-index Vx` (spec/42_index_memory.md): unsigned, modulo 65536, no flag (decision D21, log 23). -/
def Obligations.AddToIndexWraps : Prop :=
  ∀ (x : Reg) (s : State), ∃ t, exec (.addToIndex x) s = .next t ∧
    t.idx.toNat = (s.idx.toNat + s.v[x].toNat) % 65536 ∧ t.pc = s.pc + 2 ∧ t = { s with idx := t.idx, pc := t.pc }

/-- `sprite-address Vx` (spec/42_index_memory.md), for every value of `FONT_BASE` and `GLYPH_STRIDE`, with the low
nibble of `V[x]`: decision D15 (log 18). -/
def Obligations.SpriteAddressOfLowNibble : Prop :=
  ∀ (x : Reg) (s : State), ∃ t, exec (.spriteAddress x) s = .next t ∧
    t.idx.toNat = (s.cfg.fontBase + s.cfg.glyphStride * (s.v[x].toNat % 16)) % 65536 ∧
    t.pc = s.pc + 2 ∧ t = { s with idx := t.idx, pc := t.pc }

/-- `store-BCD Vx` (spec/42_index_memory.md) completes when `I + 2` is in memory: hundreds, tens, ones at `I`, `I + 1`,
`I + 2` (decision D13, log 16), every other byte and `I` unchanged. -/
def Obligations.StoreBcdWritesDigits : Prop :=
  ∀ (x : Reg) (s : State), s.mem.wf = true → s.idx.toNat + 2 < 4096 →
    ∃ t h d o, exec (.storeBcd x) s = .next t ∧
      memRead t (effAddr s 0) = some h ∧ h.toNat = s.v[x].toNat / 100 ∧
      memRead t (effAddr s 1) = some d ∧ d.toNat = s.v[x].toNat / 10 % 10 ∧
      memRead t (effAddr s 2) = some o ∧ o.toNat = s.v[x].toNat % 10 ∧
      (∀ a, (a < effAddr s 0 ∨ effAddr s 2 < a) → memRead t a = memRead s a) ∧
      t.pc = s.pc + 2 ∧ t = { s with mem := t.mem, pc := t.pc }

/-- `store-registers Vx` (spec/42_index_memory.md) completes when `I + x` is in memory: `V[k]` at `I + k` for every `k`
up to `x`, every other byte unchanged, `I` unchanged (decision D11, log 14). -/
def Obligations.StoreRegistersWritesBlock : Prop :=
  ∀ (x : Reg) (s : State), s.mem.wf = true → s.idx.toNat + x.val < 4096 →
    ∃ t, exec (.storeRegisters x) s = .next t ∧
      (∀ k : Reg, k.val ≤ x.val → memRead t (effAddr s k.val) = some (s.v[k])) ∧
      (∀ a, (a < effAddr s 0 ∨ effAddr s x.val < a) → memRead t a = memRead s a) ∧
      t.pc = s.pc + 2 ∧ t = { s with mem := t.mem, pc := t.pc }

/-- `load-registers Vx` (spec/42_index_memory.md) completes when `I + x` is in memory: the byte at `I + k` in `V[k]` for
every `k` up to `x`, the registers above unchanged, `I` unchanged (decision D11, log 14). -/
def Obligations.LoadRegistersReadsBlock : Prop :=
  ∀ (x : Reg) (s : State), s.idx.toNat + x.val < 4096 →
    ∃ t, exec (.loadRegisters x) s = .next t ∧
      (∀ k : Reg, k.val ≤ x.val → memRead s (effAddr s k.val) = some (t.v[k])) ∧
      (∀ k : Reg, x.val < k.val → t.v[k] = s.v[k]) ∧ t.pc = s.pc + 2 ∧ onlyRegsPc s t

/-- A store that runs off the end of memory fails at the first address out of range, `I` or 4096, with the bytes
before it stored, every other byte, `pc` and `I` unchanged (spec/20_memory.md, partial completion; decision D12,
log 15); the digits of a `store-BCD` lie hundreds first, which is decision D13 (log 16). -/
def Obligations.StoresFailPartWay : Prop :=
  ∀ (x : Reg) (s : State), s.mem.wf = true →
    (4096 ≤ s.idx.toNat + x.val → ∃ t, exec (.storeRegisters x) s =
        .fault (.invalidAddress (max 4096 s.idx.toNat) t) ∧
      (∀ k : Reg, k.val ≤ x.val → effAddr s k.val < 4096 → memRead t (effAddr s k.val) = some (s.v[k])) ∧
      (∀ a, (a < effAddr s 0 ∨ effAddr s x.val < a) → memRead t a = memRead s a) ∧ t = { s with mem := t.mem }) ∧
    (4096 ≤ s.idx.toNat + 2 → ∃ t, exec (.storeBcd x) s =
        .fault (.invalidAddress (max 4096 s.idx.toNat) t) ∧
      (effAddr s 0 < 4096 → ∃ h, memRead t (effAddr s 0) = some h ∧ h.toNat = s.v[x].toNat / 100) ∧
      (effAddr s 1 < 4096 → ∃ d, memRead t (effAddr s 1) = some d ∧ d.toNat = s.v[x].toNat / 10 % 10) ∧
      (∀ a, a < effAddr s 0 → memRead t a = memRead s a) ∧ t = { s with mem := t.mem })

/-- A load that runs off the end of memory fails at the first address out of range, `I` or 4096, with the registers
before it loaded, every other register, `pc`, `I` and memory unchanged (spec/20_memory.md, partial completion;
decision D12, log 15). -/
def Obligations.LoadFailsPartWay : Prop :=
  ∀ (x : Reg) (s : State), 4096 ≤ s.idx.toNat + x.val →
    ∃ t, exec (.loadRegisters x) s = .fault (.invalidAddress (max 4096 s.idx.toNat) t) ∧
      (∀ k : Reg, effAddr s k.val < 4096 → k.val ≤ x.val → memRead s (effAddr s k.val) = some (t.v[k])) ∧
      (∀ k : Reg, (4096 ≤ effAddr s k.val ∨ x.val < k.val) → t.v[k] = s.v[k]) ∧ t = { s with v := t.v }

/-! ### Display -/

/-- `clear-screen` (R79): every one of the 2048 pixels is off, regardless of prior state; `VF` and the rest
unchanged. -/
def Obligations.ClearScreenTurnsAllOff : Prop :=
  ∀ s : State, ∃ t, exec .clearScreen s = .next t ∧ (∀ p : Pixel, pixelAt t.fb p = false) ∧
    t.pc = s.pc + 2 ∧ t = { s with fb := t.fb, pc := t.pc }

/-- `draw Vx,Vy,n` (spec/43_display.md) completes when its rows are in memory or `n = 0`: exactly the pixels under a 1
bit of the sprite are inverted, with wrap on both axes (decision D14, log 17); `VF` is 1 if one of them was on, else
0, whatever `x` and `y` are (decision D23, log 25; D9, log 11). -/
def Obligations.DrawInvertsSpritePixels : Prop :=
  ∀ (x y : Reg) (n : Fin 16) (s : State), (n.val = 0 ∨ s.idx.toNat + n.val ≤ 4096) →
    ∃ t, exec (.draw x y n) s = .next t ∧
      (∀ p, spriteCovers s x y n.val p → pixelAt t.fb p = !pixelAt s.fb p) ∧
      (∀ p, ¬spriteCovers s x y n.val p → pixelAt t.fb p = pixelAt s.fb p) ∧
      ((∃ p, spriteCovers s x y n.val p ∧ pixelAt s.fb p = true) → t.v[vF] = 0x01#8) ∧
      ((∀ p, spriteCovers s x y n.val p → pixelAt s.fb p = false) → t.v[vF] = 0x00#8) ∧
      regsEqBut s t vF ∧ t.pc = s.pc + 2 ∧ t = { s with v := t.v, fb := t.fb, pc := t.pc }

/-- A `draw` whose rows run out of memory fails at the first address out of range and changes nothing at all
(spec/43_display.md; decision D23, log 25). -/
def Obligations.DrawOutOfRangeChangesNothing : Prop :=
  ∀ (x y : Reg) (n : Fin 16) (s : State), 1 ≤ n.val → 4096 ≤ s.idx.toNat + n.val - 1 →
    exec (.draw x y n) s = .fault (.invalidAddress (max 4096 s.idx.toNat) s)

/-- Drawing the same sprite twice at the same coordinates restores the framebuffer, and the second draw reports a
collision exactly if the first turned a pixel on (spec/43_display.md section on `draw` and properties (b), (c)); for
the controller, and for two `draw` instructions whose coordinate registers the first left as they were. The wrap is
decision D14 (log 17). -/
def Obligations.DrawTwiceRestores : Prop :=
  (∀ (f : Framebuffer) (x0 y0 : Byte) (rows : List Byte), rows.length ≤ 15 →
    (displayDraw (displayDraw f x0 y0 rows).1 x0 y0 rows).1 = f ∧
    ((displayDraw (displayDraw f x0 y0 rows).1 x0 y0 rows).2 = true ↔
      ∃ p, pixelAt f p = false ∧ pixelAt (displayDraw f x0 y0 rows).1 p = true)) ∧
  (∀ (x y : Reg) (n : Fin 16) (s t : State), exec (.draw x y n) s = .next t →
    t.v[x] = s.v[x] → t.v[y] = s.v[y] →
    ∃ u, exec (.draw x y n) t = .next u ∧ u.fb = s.fb ∧
      (u.v[vF] = 0x01#8 ↔ ∃ p, pixelAt s.fb p = false ∧ pixelAt t.fb p = true))

/-! ### Keys and timers -/

/-- The two key skips (R83, R84): by the current level of the key whose number is the whole of `V[x]`; above 0x0F,
`InvalidKey` and nothing changes. -/
def Obligations.KeySkipsFollowLevel : Prop :=
  ∀ (x : Reg) (s : State),
    (∀ k : KeyNum, s.v[x].toNat = k.val →
      exec (.skipIfKeyPressed x) s = .next { s with pc := if s.key[k] = true then s.pc + 4 else s.pc + 2 } ∧
      exec (.skipIfKeyNotPressed x) s = .next { s with pc := if s.key[k] = true then s.pc + 2 else s.pc + 4 }) ∧
    (0x0F < s.v[x].toNat →
      exec (.skipIfKeyPressed x) s = .fault (.invalidKey s.v[x].toNat s) ∧
      exec (.skipIfKeyNotPressed x) s = .fault (.invalidKey s.v[x].toNat s))

/-- The timer moves (spec/44_input_timers.md): whole bytes, nothing else changed but `pc`. -/
def Obligations.TimerMoves : Prop :=
  ∀ (x : Reg) (s : State),
    (∃ t, exec (.readDelayTimer x) s = .next t ∧ t.v[x] = s.dt ∧ regsEqBut s t x ∧ t.pc = s.pc + 2 ∧
      onlyRegsPc s t) ∧
    exec (.setDelayTimer x) s = .next { s with dt := s.v[x], pc := s.pc + 2 } ∧
    exec (.setSoundTimer x) s = .next { s with st := s.v[x], pc := s.pc + 2 }

/-- `wait-for-key Vx` (spec/44_input_timers.md) completes when the pending wait has latched a key: the key's number,
zero-extended, in `V[x]`, the wait over, `pc` 2 further. The latch is decision D18 (log 20). -/
def Obligations.WaitForKeyCompletes : Prop :=
  ∀ (x : Reg) (s : State) (k : KeyNum), s.kwActive = true → s.kwLatch = some k →
    ∃ t, exec (.waitForKey x) s = .next t ∧ t.v[x].toNat = k.val ∧ regsEqBut s t x ∧
      t.kwActive = false ∧ t.kwLatch = none ∧ t.pc = s.pc + 2 ∧
      t = { s with v := t.v, kwActive := t.kwActive, kwLatch := t.kwLatch, pc := t.pc }

/-- `wait-for-key Vx` (spec/44_input_timers.md) without a latched key only makes the wait pending: `pc` and the rest
stay, and a step at it gives the host `Waiting` (decisions D18, D19, log 20, 21). -/
def Obligations.WaitForKeyWaits : Prop :=
  ∀ (x : Reg) (s : State), (s.kwActive = false ∨ s.kwLatch = none) →
    exec (.waitForKey x) s = .next { s with kwActive := true } ∧
    (fetchInstr s = .ok (.waitForKey x) → hostStep s = ({ s with kwActive := true }, .waiting))

/-- A pending wait lasts until the host reports a key press (spec/60_exceptions.md, wait state): whatever steps, timer
ticks, key releases and reads come, the machine still waits at the same instruction and its registers, memory and
display are as they were (decision D18, log 20). -/
def Obligations.WaitLastsUntilKeyPress : Prop :=
  ∀ (s : State) (es : List Event), s.kwActive = true → s.kwLatch = none → waitAtPc s = true →
    (∀ e ∈ es, noKeyPress e) →
    hostStep s = (s, .waiting) ∧
    runEvents es s = { s with dt := (runEvents es s).dt, st := (runEvents es s).st, key := (runEvents es s).key } ∧
    hostStep (runEvents es s) = (runEvents es s, .waiting)

/-- The first press of a released key ends a pending wait at the next step, whatever other key events and ticks come
between (spec/44_input_timers.md, corner cases (c), (d); decision D18, log 20). -/
def Obligations.FirstPressEndsWait : Prop :=
  ∀ (s : State) (x : Reg) (k : KeyNum) (es : List Event),
    s.kwActive = true → s.kwLatch = none → fetchInstr s = .ok (.waitForKey x) → s.key[k] = false →
    (∀ e ∈ es, e ≠ .step) →
    (hostStep (runEvents (.setKey k.val true :: es) s)).2 = .ok ∧
    (hostStep (runEvents (.setKey k.val true :: es) s)).1.v[x].toNat = k.val ∧
    (hostStep (runEvents (.setKey k.val true :: es) s)).1.pc = s.pc + 2

/-! ### Host operations -/

/-- `tickTimers()` (R91): each timer 1 less, floored at 0, independently; after any number `n` of ticks each is `n` less,
floored at 0; nothing else changes. -/
def Obligations.TickTimersFloorsAtZero : Prop :=
  ∀ s : State,
    (tickTimers s).dt.toNat = s.dt.toNat - 1 ∧ (tickTimers s).st.toNat = s.st.toNat - 1 ∧
    tickTimers s = { s with dt := (tickTimers s).dt, st := (tickTimers s).st } ∧
    ∀ n : Nat, ∃ t, runEvents (List.replicate n .tickTimers) s = t ∧
      t.dt.toNat = s.dt.toNat - n ∧ t.st.toNat = s.st.toNat - n ∧ t = { s with dt := t.dt, st := t.st }

/-- `setKey(key, pressed)` (spec/45_host_operations.md): above 0xF `InvalidKey` and nothing changes; else the key's flag
is set, and the latch is filled exactly by a press of a released key while a wait is pending with an empty latch
(decision D18, log 20). -/
def Obligations.SetKeyFillsLatch : Prop :=
  (∀ (key : Nat) (p : Bool) (s : State), 0xF < key → setKey key p s = .error .invalidKey) ∧
  (∀ (k : KeyNum) (p : Bool) (s : State), ∃ t, setKey k.val p s = .ok t ∧ t.key[k] = p ∧
    (∀ j : KeyNum, j ≠ k → t.key[j] = s.key[j]) ∧
    ((p = true ∧ s.key[k] = false ∧ s.kwActive = true ∧ s.kwLatch = none) → t.kwLatch = some k) ∧
    (¬(p = true ∧ s.key[k] = false ∧ s.kwActive = true ∧ s.kwLatch = none) → t.kwLatch = s.kwLatch) ∧
    t = { s with key := t.key, kwLatch := t.kwLatch })

/-- `isPressed(key)` (R93): the key's flag, or `InvalidKey` above 0xF; the event changes no state. -/
def Obligations.IsPressedIsPureQuery : Prop :=
  (∀ (k : KeyNum) (s : State), isPressed k.val s = .ok (s.key[k])) ∧
  (∀ (key : Nat) (s : State), 0xF < key → isPressed key s = .error .invalidKey) ∧
  (∀ (key : Nat) (s : State), (applyEvent (.isPressed key) s).1 = s)

/-- `snapshot()` (R94): 2048 values, element `row * 64 + col` is `FB[row][col]`; the event changes no state. -/
def Obligations.SnapshotIsRowMajor : Prop :=
  ∀ s : State, (snapshot s).length = 2048 ∧
    (∀ p : Pixel, (snapshot s)[p.1.val * 64 + p.2.val]? = some (pixelAt s.fb p)) ∧
    applyEvent .snapshot s = (s, .pixels (snapshot s))

/-- `new(bytes)` and the reset values (spec/10_state.md section 4, spec/45_host_operations.md): an image above 3584
bytes gives `RomTooLarge`; any other gives a machine with the image at 0x200, the font image at its base and 0x00
everywhere else, `pc` 0x200, all else zero, empty, cleared, released. The value of dead stack entries is decision D26
(log 28), the font parameter D16 (log 19), the key-wait state D18 (log 20). `State.reset` is `new` of the empty image with
the default parameters (log 6). -/
def Obligations.NewBuildsResetState : Prop :=
  (∀ (cfg : Config) (bytes : List Byte), 3584 < bytes.length → newMachine cfg bytes = .error .romTooLarge) ∧
  (∀ (cfg : Config) (bytes : List Byte), cfg.wf = true → bytes.length ≤ 3584 → ∃ s, newMachine cfg bytes = .ok s ∧
    (∀ k b, bytes[k]? = some b → memRead s (0x200 + k) = some b) ∧
    (∀ k b, cfg.fontImage[k]? = some b → memRead s (cfg.fontBase + k) = some b) ∧
    (∀ a < 4096, (a < 0x200 ∨ 0x200 + bytes.length ≤ a) →
      (a < cfg.fontBase ∨ cfg.fontBase + cfg.fontImage.length ≤ a) → memRead s a = some 0x00#8) ∧
    (∀ r : Reg, s.v[r] = 0x00#8) ∧ s.idx = 0x0000#16 ∧ s.pc = 0x0200#16 ∧ s.sp.val = 0 ∧
    (∀ k : Fin 16, s.stk[k] = 0x0000#16) ∧ s.dt = 0x00#8 ∧ s.st = 0x00#8 ∧
    (∀ p : Pixel, pixelAt s.fb p = false) ∧ (∀ k : KeyNum, s.key[k] = false) ∧
    s.kwActive = false ∧ s.kwLatch = none ∧ s.cfg = cfg) ∧
  newMachine Config.default [] = .ok State.reset

/-! ### The whole machine -/

/-- The invariant holds right after reset: at `State.reset`, and after `new` of any image that fits with any
well-formed parameters (`State.inv`, Safety.lean). -/
def Obligations.InvariantAtReset : Prop :=
  State.inv State.reset ∧
  ∀ (cfg : Config) (bytes : List Byte) (s : State), cfg.wf = true → newMachine cfg bytes = .ok s → State.inv s

/-- Every step keeps the invariant: memory stays in canonical form inside the address space, `pc` never exceeds
0x10FE, live return addresses never exceed 0x1000, the latch is filled only during a wait, and during a wait the
instruction at `pc` is a `wait-for-key` (spec/10_state.md sections 2 and 3, spec/44_input_timers.md). -/
def Obligations.StepKeepsInvariant : Prop :=
  ∀ s t : State, State.inv s → step s = .next t → State.inv t

/-- Every execution keeps the invariant, through host events and failed steps too, and never changes the parameters
(spec/00_scope.md, agents and events; the parameters in the state are the model's choice, log 2). -/
def Obligations.ExecutionsKeepInvariant : Prop :=
  ∀ (es : List Event) (s : State), State.inv s →
    State.inv (runEvents es s) ∧ (runEvents es s).cfg = s.cfg

/-- Each piece of state has its writers and no other (spec/10_state.md): the display only `clear-screen` and `draw`,
`I` only the three index instructions, the stack only `call` and `return`, each timer only its own, the key-wait state
only `wait-for-key`, memory only the two stores and these only at the addresses they compute, keys and parameters
none. `I` under the block moves is decision D11 (log 14); the counter of draws is the model's own (log 3). -/
def Obligations.StateElementsHaveTheirWriters : Prop :=
  ∀ (i : Instr) (s t : State), s.mem.wf = true → exec i s = .next t →
    (i ≠ .clearScreen → (∀ x y n, i ≠ .draw x y n) → t.fb = s.fb) ∧
    ((∀ nnn, i ≠ .setIndex nnn) → (∀ x, i ≠ .addToIndex x) → (∀ x, i ≠ .spriteAddress x) → t.idx = s.idx) ∧
    (i ≠ .ret → (∀ nnn, i ≠ .call nnn) → t.sp = s.sp ∧ t.stk = s.stk) ∧
    ((∀ x, i ≠ .setDelayTimer x) → t.dt = s.dt) ∧ ((∀ x, i ≠ .setSoundTimer x) → t.st = s.st) ∧
    ((∀ x, i ≠ .waitForKey x) → t.kwActive = s.kwActive ∧ t.kwLatch = s.kwLatch) ∧
    (∀ a, ¬storesTo i s a → memRead t a = memRead s a) ∧
    ((∀ x kk, i ≠ .randomize x kk) → t.draws = s.draws) ∧ t.key = s.key ∧ t.cfg = s.cfg

/-- No general register changes but the instruction's destination and, for exactly six instructions, `VF`
(spec/10_state.md section 1; decision D7 for `copy`, `or`, `and`, `xor`, log 13). -/
def Obligations.RegistersHaveTheirWriters : Prop :=
  ∀ (i : Instr) (s t : State) (r : Reg), exec i s = .next t → ¬writesReg i r → t.v[r] = s.v[r]

/-- A failed step leaves `pc`; the bytes outside the addresses its instruction stores to and, in a `load-registers`,
the registers above `x` or whose byte lies outside memory; memory alone may differ after a store, general registers
alone after a load, and nothing after any other failure (spec/60_exceptions.md section 3; decision D12 for the stores
and the load, log 15; the state a fault carries is the model's choice, log 4). -/
def Obligations.FailedStepLeftovers : Prop :=
  ∀ (s : State) (e : Fault), step s = .fault e →
    e.left.pc = s.pc ∧
    (s.mem.wf = true → ∀ i, fetchInstr s = .ok i → ∀ a, ¬storesTo i s a → memRead e.left a = memRead s a) ∧
    (∀ x, fetchInstr s = .ok (.loadRegisters x) →
      ∀ r : Reg, (4096 ≤ effAddr s r.val ∨ x.val < r.val) → e.left.v[r] = s.v[r]) ∧
    (storeAtPc s → e.left = { s with mem := e.left.mem }) ∧
    ((∃ x, fetchInstr s = .ok (.loadRegisters x)) → e.left = { s with v := e.left.v }) ∧
    (¬storeAtPc s → (∀ x, fetchInstr s ≠ .ok (.loadRegisters x)) → e.left = s)

/-- A failed step fails again with the same kind when stepped again, unless a partial store has changed the bytes at
`pc` (spec/60_exceptions.md, section 3; decision D22, log 24). -/
def Obligations.FailedStepFailsAgain : Prop :=
  ∀ (s : State) (e : Fault), step s = .fault e → (¬storeAtPc s ∨ fetch e.left = fetch s) →
    ∃ e', step e.left = .fault e' ∧ e'.kind = e.kind

/-- A jump to its own address is a stopping point: every number of further steps leaves the whole state unchanged, each
with result `Ok` (spec/70_reset_and_hazards.md section 4, (a)). -/
def Obligations.SelfJumpStaysForEver : Prop :=
  ∀ (s : State) (n : Nat), atSelfJump s = true →
    runEvents (List.replicate n .step) s = s ∧
    eventResults (List.replicate n .step) s = List.replicate n (.stepped .ok)

/-- No instruction reads the sound timer (spec/10_state.md section 2): two states that differ in `ST` only step alike,
given the same draw. For `randomize` both states read the draw of one number, which is the model's choice (log 3): the
spec relates no two draws. -/
def Obligations.SoundTimerIsNotRead : Prop :=
  ∀ s u : State, eqButSoundTimer s u → outcomesRelated eqButSoundTimer (step s) (step u)

/-- No rule reads a dead stack entry (spec/10_state.md section 2): two states that differ in dead entries only step
alike, given the same draw, and differ in dead entries only afterwards. For `randomize` both states read the draw of one
number, which is the model's choice (log 3): the spec relates no two draws. -/
def Obligations.DeadStackEntriesAreNotRead : Prop :=
  ∀ s u : State, eqButDeadStack s u → outcomesRelated eqButDeadStack (step s) (step u)
end

