-- ==== Sys2Proof/Laws/State.lean ====
section
/-! SUPPORT. One lemma per field per update of the state, so that no proof unfolds a record update. -/

namespace Sys2Proof.Machine

/-- `MEM_SIZE` as a numeral, for arithmetic. -/
theorem memSize_eq : memSize = 4096 := rfl

/-! ### `setV` -/

@[simp] theorem State.setV_v (s : State) (x : Reg) (b : Byte) : (s.setV x b).v = s.v.set x.val b x.isLt := rfl
@[simp] theorem State.setV_idx (s : State) (x : Reg) (b : Byte) : (s.setV x b).idx = s.idx := rfl
@[simp] theorem State.setV_pc (s : State) (x : Reg) (b : Byte) : (s.setV x b).pc = s.pc := rfl
@[simp] theorem State.setV_sp (s : State) (x : Reg) (b : Byte) : (s.setV x b).sp = s.sp := rfl
@[simp] theorem State.setV_stk (s : State) (x : Reg) (b : Byte) : (s.setV x b).stk = s.stk := rfl
@[simp] theorem State.setV_dt (s : State) (x : Reg) (b : Byte) : (s.setV x b).dt = s.dt := rfl
@[simp] theorem State.setV_st (s : State) (x : Reg) (b : Byte) : (s.setV x b).st = s.st := rfl
@[simp] theorem State.setV_mem (s : State) (x : Reg) (b : Byte) : (s.setV x b).mem = s.mem := rfl
@[simp] theorem State.setV_fb (s : State) (x : Reg) (b : Byte) : (s.setV x b).fb = s.fb := rfl
@[simp] theorem State.setV_key (s : State) (x : Reg) (b : Byte) : (s.setV x b).key = s.key := rfl
@[simp] theorem State.setV_kwActive (s : State) (x : Reg) (b : Byte) : (s.setV x b).kwActive = s.kwActive := rfl
@[simp] theorem State.setV_kwLatch (s : State) (x : Reg) (b : Byte) : (s.setV x b).kwLatch = s.kwLatch := rfl
@[simp] theorem State.setV_draws (s : State) (x : Reg) (b : Byte) : (s.setV x b).draws = s.draws := rfl
@[simp] theorem State.setV_cfg (s : State) (x : Reg) (b : Byte) : (s.setV x b).cfg = s.cfg := rfl

/-! ### `setIdx` -/

@[simp] theorem State.setIdx_v (s : State) (w : Word) : (s.setIdx w).v = s.v := rfl
@[simp] theorem State.setIdx_idx (s : State) (w : Word) : (s.setIdx w).idx = w := rfl
@[simp] theorem State.setIdx_pc (s : State) (w : Word) : (s.setIdx w).pc = s.pc := rfl
@[simp] theorem State.setIdx_sp (s : State) (w : Word) : (s.setIdx w).sp = s.sp := rfl
@[simp] theorem State.setIdx_stk (s : State) (w : Word) : (s.setIdx w).stk = s.stk := rfl
@[simp] theorem State.setIdx_dt (s : State) (w : Word) : (s.setIdx w).dt = s.dt := rfl
@[simp] theorem State.setIdx_st (s : State) (w : Word) : (s.setIdx w).st = s.st := rfl
@[simp] theorem State.setIdx_mem (s : State) (w : Word) : (s.setIdx w).mem = s.mem := rfl
@[simp] theorem State.setIdx_fb (s : State) (w : Word) : (s.setIdx w).fb = s.fb := rfl
@[simp] theorem State.setIdx_key (s : State) (w : Word) : (s.setIdx w).key = s.key := rfl
@[simp] theorem State.setIdx_kwActive (s : State) (w : Word) : (s.setIdx w).kwActive = s.kwActive := rfl
@[simp] theorem State.setIdx_kwLatch (s : State) (w : Word) : (s.setIdx w).kwLatch = s.kwLatch := rfl
@[simp] theorem State.setIdx_draws (s : State) (w : Word) : (s.setIdx w).draws = s.draws := rfl
@[simp] theorem State.setIdx_cfg (s : State) (w : Word) : (s.setIdx w).cfg = s.cfg := rfl

/-! ### `setPc` -/

@[simp] theorem State.setPc_v (s : State) (w : Word) : (s.setPc w).v = s.v := rfl
@[simp] theorem State.setPc_idx (s : State) (w : Word) : (s.setPc w).idx = s.idx := rfl
@[simp] theorem State.setPc_pc (s : State) (w : Word) : (s.setPc w).pc = w := rfl
@[simp] theorem State.setPc_sp (s : State) (w : Word) : (s.setPc w).sp = s.sp := rfl
@[simp] theorem State.setPc_stk (s : State) (w : Word) : (s.setPc w).stk = s.stk := rfl
@[simp] theorem State.setPc_dt (s : State) (w : Word) : (s.setPc w).dt = s.dt := rfl
@[simp] theorem State.setPc_st (s : State) (w : Word) : (s.setPc w).st = s.st := rfl
@[simp] theorem State.setPc_mem (s : State) (w : Word) : (s.setPc w).mem = s.mem := rfl
@[simp] theorem State.setPc_fb (s : State) (w : Word) : (s.setPc w).fb = s.fb := rfl
@[simp] theorem State.setPc_key (s : State) (w : Word) : (s.setPc w).key = s.key := rfl
@[simp] theorem State.setPc_kwActive (s : State) (w : Word) : (s.setPc w).kwActive = s.kwActive := rfl
@[simp] theorem State.setPc_kwLatch (s : State) (w : Word) : (s.setPc w).kwLatch = s.kwLatch := rfl
@[simp] theorem State.setPc_draws (s : State) (w : Word) : (s.setPc w).draws = s.draws := rfl
@[simp] theorem State.setPc_cfg (s : State) (w : Word) : (s.setPc w).cfg = s.cfg := rfl

/-! ### `setDt` -/

@[simp] theorem State.setDt_v (s : State) (b : Byte) : (s.setDt b).v = s.v := rfl
@[simp] theorem State.setDt_idx (s : State) (b : Byte) : (s.setDt b).idx = s.idx := rfl
@[simp] theorem State.setDt_pc (s : State) (b : Byte) : (s.setDt b).pc = s.pc := rfl
@[simp] theorem State.setDt_sp (s : State) (b : Byte) : (s.setDt b).sp = s.sp := rfl
@[simp] theorem State.setDt_stk (s : State) (b : Byte) : (s.setDt b).stk = s.stk := rfl
@[simp] theorem State.setDt_dt (s : State) (b : Byte) : (s.setDt b).dt = b := rfl
@[simp] theorem State.setDt_st (s : State) (b : Byte) : (s.setDt b).st = s.st := rfl
@[simp] theorem State.setDt_mem (s : State) (b : Byte) : (s.setDt b).mem = s.mem := rfl
@[simp] theorem State.setDt_fb (s : State) (b : Byte) : (s.setDt b).fb = s.fb := rfl
@[simp] theorem State.setDt_key (s : State) (b : Byte) : (s.setDt b).key = s.key := rfl
@[simp] theorem State.setDt_kwActive (s : State) (b : Byte) : (s.setDt b).kwActive = s.kwActive := rfl
@[simp] theorem State.setDt_kwLatch (s : State) (b : Byte) : (s.setDt b).kwLatch = s.kwLatch := rfl
@[simp] theorem State.setDt_draws (s : State) (b : Byte) : (s.setDt b).draws = s.draws := rfl
@[simp] theorem State.setDt_cfg (s : State) (b : Byte) : (s.setDt b).cfg = s.cfg := rfl

/-! ### `setSt` -/

@[simp] theorem State.setSt_v (s : State) (b : Byte) : (s.setSt b).v = s.v := rfl
@[simp] theorem State.setSt_idx (s : State) (b : Byte) : (s.setSt b).idx = s.idx := rfl
@[simp] theorem State.setSt_pc (s : State) (b : Byte) : (s.setSt b).pc = s.pc := rfl
@[simp] theorem State.setSt_sp (s : State) (b : Byte) : (s.setSt b).sp = s.sp := rfl
@[simp] theorem State.setSt_stk (s : State) (b : Byte) : (s.setSt b).stk = s.stk := rfl
@[simp] theorem State.setSt_dt (s : State) (b : Byte) : (s.setSt b).dt = s.dt := rfl
@[simp] theorem State.setSt_st (s : State) (b : Byte) : (s.setSt b).st = b := rfl
@[simp] theorem State.setSt_mem (s : State) (b : Byte) : (s.setSt b).mem = s.mem := rfl
@[simp] theorem State.setSt_fb (s : State) (b : Byte) : (s.setSt b).fb = s.fb := rfl
@[simp] theorem State.setSt_key (s : State) (b : Byte) : (s.setSt b).key = s.key := rfl
@[simp] theorem State.setSt_kwActive (s : State) (b : Byte) : (s.setSt b).kwActive = s.kwActive := rfl
@[simp] theorem State.setSt_kwLatch (s : State) (b : Byte) : (s.setSt b).kwLatch = s.kwLatch := rfl
@[simp] theorem State.setSt_draws (s : State) (b : Byte) : (s.setSt b).draws = s.draws := rfl
@[simp] theorem State.setSt_cfg (s : State) (b : Byte) : (s.setSt b).cfg = s.cfg := rfl

/-! ### `setMem` -/

@[simp] theorem State.setMem_v (s : State) (m : Memory) : (s.setMem m).v = s.v := rfl
@[simp] theorem State.setMem_idx (s : State) (m : Memory) : (s.setMem m).idx = s.idx := rfl
@[simp] theorem State.setMem_pc (s : State) (m : Memory) : (s.setMem m).pc = s.pc := rfl
@[simp] theorem State.setMem_sp (s : State) (m : Memory) : (s.setMem m).sp = s.sp := rfl
@[simp] theorem State.setMem_stk (s : State) (m : Memory) : (s.setMem m).stk = s.stk := rfl
@[simp] theorem State.setMem_dt (s : State) (m : Memory) : (s.setMem m).dt = s.dt := rfl
@[simp] theorem State.setMem_st (s : State) (m : Memory) : (s.setMem m).st = s.st := rfl
@[simp] theorem State.setMem_mem (s : State) (m : Memory) : (s.setMem m).mem = m := rfl
@[simp] theorem State.setMem_fb (s : State) (m : Memory) : (s.setMem m).fb = s.fb := rfl
@[simp] theorem State.setMem_key (s : State) (m : Memory) : (s.setMem m).key = s.key := rfl
@[simp] theorem State.setMem_kwActive (s : State) (m : Memory) : (s.setMem m).kwActive = s.kwActive := rfl
@[simp] theorem State.setMem_kwLatch (s : State) (m : Memory) : (s.setMem m).kwLatch = s.kwLatch := rfl
@[simp] theorem State.setMem_draws (s : State) (m : Memory) : (s.setMem m).draws = s.draws := rfl
@[simp] theorem State.setMem_cfg (s : State) (m : Memory) : (s.setMem m).cfg = s.cfg := rfl

/-! ### `setFb` -/

@[simp] theorem State.setFb_v (s : State) (f : Framebuffer) : (s.setFb f).v = s.v := rfl
@[simp] theorem State.setFb_idx (s : State) (f : Framebuffer) : (s.setFb f).idx = s.idx := rfl
@[simp] theorem State.setFb_pc (s : State) (f : Framebuffer) : (s.setFb f).pc = s.pc := rfl
@[simp] theorem State.setFb_sp (s : State) (f : Framebuffer) : (s.setFb f).sp = s.sp := rfl
@[simp] theorem State.setFb_stk (s : State) (f : Framebuffer) : (s.setFb f).stk = s.stk := rfl
@[simp] theorem State.setFb_dt (s : State) (f : Framebuffer) : (s.setFb f).dt = s.dt := rfl
@[simp] theorem State.setFb_st (s : State) (f : Framebuffer) : (s.setFb f).st = s.st := rfl
@[simp] theorem State.setFb_mem (s : State) (f : Framebuffer) : (s.setFb f).mem = s.mem := rfl
@[simp] theorem State.setFb_fb (s : State) (f : Framebuffer) : (s.setFb f).fb = f := rfl
@[simp] theorem State.setFb_key (s : State) (f : Framebuffer) : (s.setFb f).key = s.key := rfl
@[simp] theorem State.setFb_kwActive (s : State) (f : Framebuffer) : (s.setFb f).kwActive = s.kwActive := rfl
@[simp] theorem State.setFb_kwLatch (s : State) (f : Framebuffer) : (s.setFb f).kwLatch = s.kwLatch := rfl
@[simp] theorem State.setFb_draws (s : State) (f : Framebuffer) : (s.setFb f).draws = s.draws := rfl
@[simp] theorem State.setFb_cfg (s : State) (f : Framebuffer) : (s.setFb f).cfg = s.cfg := rfl

/-! ### `setKeyFlag` -/

@[simp] theorem State.setKeyFlag_v (s : State) (k : KeyNum) (p : Bool) : (s.setKeyFlag k p).v = s.v := rfl
@[simp] theorem State.setKeyFlag_idx (s : State) (k : KeyNum) (p : Bool) : (s.setKeyFlag k p).idx = s.idx := rfl
@[simp] theorem State.setKeyFlag_pc (s : State) (k : KeyNum) (p : Bool) : (s.setKeyFlag k p).pc = s.pc := rfl
@[simp] theorem State.setKeyFlag_sp (s : State) (k : KeyNum) (p : Bool) : (s.setKeyFlag k p).sp = s.sp := rfl
@[simp] theorem State.setKeyFlag_stk (s : State) (k : KeyNum) (p : Bool) : (s.setKeyFlag k p).stk = s.stk := rfl
@[simp] theorem State.setKeyFlag_dt (s : State) (k : KeyNum) (p : Bool) : (s.setKeyFlag k p).dt = s.dt := rfl
@[simp] theorem State.setKeyFlag_st (s : State) (k : KeyNum) (p : Bool) : (s.setKeyFlag k p).st = s.st := rfl
@[simp] theorem State.setKeyFlag_mem (s : State) (k : KeyNum) (p : Bool) : (s.setKeyFlag k p).mem = s.mem := rfl
@[simp] theorem State.setKeyFlag_fb (s : State) (k : KeyNum) (p : Bool) : (s.setKeyFlag k p).fb = s.fb := rfl
@[simp] theorem State.setKeyFlag_key (s : State) (k : KeyNum) (p : Bool) : (s.setKeyFlag k p).key = s.key.set k.val p k.isLt := rfl
@[simp] theorem State.setKeyFlag_kwActive (s : State) (k : KeyNum) (p : Bool) : (s.setKeyFlag k p).kwActive = s.kwActive := rfl
@[simp] theorem State.setKeyFlag_kwLatch (s : State) (k : KeyNum) (p : Bool) : (s.setKeyFlag k p).kwLatch = s.kwLatch := rfl
@[simp] theorem State.setKeyFlag_draws (s : State) (k : KeyNum) (p : Bool) : (s.setKeyFlag k p).draws = s.draws := rfl
@[simp] theorem State.setKeyFlag_cfg (s : State) (k : KeyNum) (p : Bool) : (s.setKeyFlag k p).cfg = s.cfg := rfl

/-! ### `setKeyWait` -/

@[simp] theorem State.setKeyWait_v (s : State) (a : Bool) (l : Option KeyNum) : (s.setKeyWait a l).v = s.v := rfl
@[simp] theorem State.setKeyWait_idx (s : State) (a : Bool) (l : Option KeyNum) : (s.setKeyWait a l).idx = s.idx := rfl
@[simp] theorem State.setKeyWait_pc (s : State) (a : Bool) (l : Option KeyNum) : (s.setKeyWait a l).pc = s.pc := rfl
@[simp] theorem State.setKeyWait_sp (s : State) (a : Bool) (l : Option KeyNum) : (s.setKeyWait a l).sp = s.sp := rfl
@[simp] theorem State.setKeyWait_stk (s : State) (a : Bool) (l : Option KeyNum) : (s.setKeyWait a l).stk = s.stk := rfl
@[simp] theorem State.setKeyWait_dt (s : State) (a : Bool) (l : Option KeyNum) : (s.setKeyWait a l).dt = s.dt := rfl
@[simp] theorem State.setKeyWait_st (s : State) (a : Bool) (l : Option KeyNum) : (s.setKeyWait a l).st = s.st := rfl
@[simp] theorem State.setKeyWait_mem (s : State) (a : Bool) (l : Option KeyNum) : (s.setKeyWait a l).mem = s.mem := rfl
@[simp] theorem State.setKeyWait_fb (s : State) (a : Bool) (l : Option KeyNum) : (s.setKeyWait a l).fb = s.fb := rfl
@[simp] theorem State.setKeyWait_key (s : State) (a : Bool) (l : Option KeyNum) : (s.setKeyWait a l).key = s.key := rfl
@[simp] theorem State.setKeyWait_kwActive (s : State) (a : Bool) (l : Option KeyNum) : (s.setKeyWait a l).kwActive = a := rfl
@[simp] theorem State.setKeyWait_kwLatch (s : State) (a : Bool) (l : Option KeyNum) : (s.setKeyWait a l).kwLatch = l := rfl
@[simp] theorem State.setKeyWait_draws (s : State) (a : Bool) (l : Option KeyNum) : (s.setKeyWait a l).draws = s.draws := rfl
@[simp] theorem State.setKeyWait_cfg (s : State) (a : Bool) (l : Option KeyNum) : (s.setKeyWait a l).cfg = s.cfg := rfl

/-! ### `countDraw` -/

@[simp] theorem State.countDraw_v (s : State) : s.countDraw.v = s.v := rfl
@[simp] theorem State.countDraw_idx (s : State) : s.countDraw.idx = s.idx := rfl
@[simp] theorem State.countDraw_pc (s : State) : s.countDraw.pc = s.pc := rfl
@[simp] theorem State.countDraw_sp (s : State) : s.countDraw.sp = s.sp := rfl
@[simp] theorem State.countDraw_stk (s : State) : s.countDraw.stk = s.stk := rfl
@[simp] theorem State.countDraw_dt (s : State) : s.countDraw.dt = s.dt := rfl
@[simp] theorem State.countDraw_st (s : State) : s.countDraw.st = s.st := rfl
@[simp] theorem State.countDraw_mem (s : State) : s.countDraw.mem = s.mem := rfl
@[simp] theorem State.countDraw_fb (s : State) : s.countDraw.fb = s.fb := rfl
@[simp] theorem State.countDraw_key (s : State) : s.countDraw.key = s.key := rfl
@[simp] theorem State.countDraw_kwActive (s : State) : s.countDraw.kwActive = s.kwActive := rfl
@[simp] theorem State.countDraw_kwLatch (s : State) : s.countDraw.kwLatch = s.kwLatch := rfl
@[simp] theorem State.countDraw_draws (s : State) : s.countDraw.draws = s.draws + 1 := rfl
@[simp] theorem State.countDraw_cfg (s : State) : s.countDraw.cfg = s.cfg := rfl

/-! ### `advance` -/

@[simp] theorem State.advance_v (s : State) : s.advance.v = s.v := rfl
@[simp] theorem State.advance_idx (s : State) : s.advance.idx = s.idx := rfl
@[simp] theorem State.advance_pc (s : State) : s.advance.pc = s.pc + 2#16 := rfl
@[simp] theorem State.advance_sp (s : State) : s.advance.sp = s.sp := rfl
@[simp] theorem State.advance_stk (s : State) : s.advance.stk = s.stk := rfl
@[simp] theorem State.advance_dt (s : State) : s.advance.dt = s.dt := rfl
@[simp] theorem State.advance_st (s : State) : s.advance.st = s.st := rfl
@[simp] theorem State.advance_mem (s : State) : s.advance.mem = s.mem := rfl
@[simp] theorem State.advance_fb (s : State) : s.advance.fb = s.fb := rfl
@[simp] theorem State.advance_key (s : State) : s.advance.key = s.key := rfl
@[simp] theorem State.advance_kwActive (s : State) : s.advance.kwActive = s.kwActive := rfl
@[simp] theorem State.advance_kwLatch (s : State) : s.advance.kwLatch = s.kwLatch := rfl
@[simp] theorem State.advance_draws (s : State) : s.advance.draws = s.draws := rfl
@[simp] theorem State.advance_cfg (s : State) : s.advance.cfg = s.cfg := rfl

/-! ### `skipIf` -/

@[simp] theorem State.skipIf_v (s : State) (c : Bool) : (s.skipIf c).v = s.v := rfl
@[simp] theorem State.skipIf_idx (s : State) (c : Bool) : (s.skipIf c).idx = s.idx := rfl
@[simp] theorem State.skipIf_pc (s : State) (c : Bool) : (s.skipIf c).pc = if c then s.pc + 4#16 else s.pc + 2#16 := rfl
@[simp] theorem State.skipIf_sp (s : State) (c : Bool) : (s.skipIf c).sp = s.sp := rfl
@[simp] theorem State.skipIf_stk (s : State) (c : Bool) : (s.skipIf c).stk = s.stk := rfl
@[simp] theorem State.skipIf_dt (s : State) (c : Bool) : (s.skipIf c).dt = s.dt := rfl
@[simp] theorem State.skipIf_st (s : State) (c : Bool) : (s.skipIf c).st = s.st := rfl
@[simp] theorem State.skipIf_mem (s : State) (c : Bool) : (s.skipIf c).mem = s.mem := rfl
@[simp] theorem State.skipIf_fb (s : State) (c : Bool) : (s.skipIf c).fb = s.fb := rfl
@[simp] theorem State.skipIf_key (s : State) (c : Bool) : (s.skipIf c).key = s.key := rfl
@[simp] theorem State.skipIf_kwActive (s : State) (c : Bool) : (s.skipIf c).kwActive = s.kwActive := rfl
@[simp] theorem State.skipIf_kwLatch (s : State) (c : Bool) : (s.skipIf c).kwLatch = s.kwLatch := rfl
@[simp] theorem State.skipIf_draws (s : State) (c : Bool) : (s.skipIf c).draws = s.draws := rfl
@[simp] theorem State.skipIf_cfg (s : State) (c : Bool) : (s.skipIf c).cfg = s.cfg := rfl

/-! ### `setResultFlag` -/

@[simp] theorem State.setResultFlag_v (s : State) (x : Reg) (r : Byte) (c : Bool) : (s.setResultFlag x r c).v = (s.v.set x.val r x.isLt).set 15 (flagByte c) := rfl
@[simp] theorem State.setResultFlag_idx (s : State) (x : Reg) (r : Byte) (c : Bool) : (s.setResultFlag x r c).idx = s.idx := rfl
@[simp] theorem State.setResultFlag_pc (s : State) (x : Reg) (r : Byte) (c : Bool) : (s.setResultFlag x r c).pc = s.pc := rfl
@[simp] theorem State.setResultFlag_sp (s : State) (x : Reg) (r : Byte) (c : Bool) : (s.setResultFlag x r c).sp = s.sp := rfl
@[simp] theorem State.setResultFlag_stk (s : State) (x : Reg) (r : Byte) (c : Bool) : (s.setResultFlag x r c).stk = s.stk := rfl
@[simp] theorem State.setResultFlag_dt (s : State) (x : Reg) (r : Byte) (c : Bool) : (s.setResultFlag x r c).dt = s.dt := rfl
@[simp] theorem State.setResultFlag_st (s : State) (x : Reg) (r : Byte) (c : Bool) : (s.setResultFlag x r c).st = s.st := rfl
@[simp] theorem State.setResultFlag_mem (s : State) (x : Reg) (r : Byte) (c : Bool) : (s.setResultFlag x r c).mem = s.mem := rfl
@[simp] theorem State.setResultFlag_fb (s : State) (x : Reg) (r : Byte) (c : Bool) : (s.setResultFlag x r c).fb = s.fb := rfl
@[simp] theorem State.setResultFlag_key (s : State) (x : Reg) (r : Byte) (c : Bool) : (s.setResultFlag x r c).key = s.key := rfl
@[simp] theorem State.setResultFlag_kwActive (s : State) (x : Reg) (r : Byte) (c : Bool) : (s.setResultFlag x r c).kwActive = s.kwActive := rfl
@[simp] theorem State.setResultFlag_kwLatch (s : State) (x : Reg) (r : Byte) (c : Bool) : (s.setResultFlag x r c).kwLatch = s.kwLatch := rfl
@[simp] theorem State.setResultFlag_draws (s : State) (x : Reg) (r : Byte) (c : Bool) : (s.setResultFlag x r c).draws = s.draws := rfl
@[simp] theorem State.setResultFlag_cfg (s : State) (x : Reg) (r : Byte) (c : Bool) : (s.setResultFlag x r c).cfg = s.cfg := rfl

/-! ### Register reads after a write -/

/-- An element of a sixteen-entry file after one entry was set, by entry numbers. -/
@[simp] theorem getElem_set_entry {α : Type} (f : Vector α 16) (x r : Fin 16) (b : α) :
    (f.set x.val b x.isLt)[r.val] = if r = x then b else f[r.val] := by
  simp only [Vector.getElem_set, Fin.ext_iff, eq_comm]

/-- A register reads as the value last written to it, and a write leaves every other register alone. -/
@[simp] theorem State.getV_setV (s : State) (x r : Reg) (b : Byte) :
    (s.setV x b).getV r = if r = x then b else s.getV r := by
  simp only [State.getV, State.setV_v, Fin.getElem_fin, Vector.getElem_set, Fin.ext_iff, eq_comm]

/-- The result and the flag of a flag-writing instruction: the flag wins when the result goes to `VF`. -/
@[simp] theorem State.getV_setResultFlag (s : State) (x r : Reg) (b : Byte) (c : Bool) :
    (s.setResultFlag x b c).getV r = if r = vF then flagByte c else if r = x then b else s.getV r := by
  simp only [State.setResultFlag, State.getV_setV]

/-- The program counter and the index register are no general registers. -/
@[simp] theorem State.getV_setPc (s : State) (w : Word) (r : Reg) : (s.setPc w).getV r = s.getV r := rfl
@[simp] theorem State.getV_advance (s : State) (r : Reg) : s.advance.getV r = s.getV r := rfl
@[simp] theorem State.getV_setMem (s : State) (m : Memory) (r : Reg) : (s.setMem m).getV r = s.getV r := rfl
@[simp] theorem State.getV_setFb (s : State) (f : Framebuffer) (r : Reg) : (s.setFb f).getV r = s.getV r := rfl

/-- A key flag reads as the value last set, and setting one leaves every other alone. -/
@[simp] theorem State.setKeyFlag_getElem (s : State) (k j : KeyNum) (p : Bool) :
    (s.setKeyFlag k p).key[j] = if j = k then p else s.key[j] := by
  simp only [State.setKeyFlag_key, Fin.getElem_fin, Vector.getElem_set, Fin.ext_iff, eq_comm]

end Sys2Proof.Machine
end

