-- ==== Sys2Proof/Laws/Decode.lean ====
section
/-! SUPPORT. The fields of an encoded word, and the decoder and encoder through numbers (spec/30_encoding.md rules
R41, R42). -/

namespace Sys2Proof

/-! ### Fields as numbers -/

theorem fieldClass_toNat (w : Word) : (fieldClass w).toNat = w.toNat / 4096 := by
  simp [fieldClass, Nat.shiftRight_eq_div_pow]; omega

theorem fieldX_val (w : Word) : (fieldX w).val = w.toNat / 256 % 16 := by
  simp [fieldX, Nat.shiftRight_eq_div_pow]

theorem fieldY_val (w : Word) : (fieldY w).val = w.toNat / 16 % 16 := by
  simp [fieldY, Nat.shiftRight_eq_div_pow]

theorem fieldN_val (w : Word) : (fieldN w).val = w.toNat % 16 := by simp [fieldN]

theorem fieldKK_toNat (w : Word) : (fieldKK w).toNat = w.toNat % 256 := by simp [fieldKK]

theorem fieldNNN_toNat (w : Word) : (fieldNNN w).toNat = w.toNat % 4096 := by simp [fieldNNN]

/-! ### Formats as numbers -/

theorem append_toNat {m n : Nat} (a : BitVec m) (b : BitVec n) : (a ++ b).toNat = a.toNat * 2 ^ n + b.toNat := by
  rw [BitVec.toNat_append, ← Nat.shiftLeft_add_eq_or_of_lt b.isLt, Nat.shiftLeft_eq]

theorem regBits_toNat (r : Fin 16) : (regBits r).toNat = r.val := by
  simp only [regBits, BitVec.toNat_ofNat]; omega

theorem formatNNN_toNat (c : BitVec 4) (nnn : Addr12) : (formatNNN c nnn).toNat = c.toNat * 4096 + nnn.toNat :=
  append_toNat c nnn

theorem formatXKK_toNat (c : BitVec 4) (x : Reg) (kk : Byte) :
    (formatXKK c x kk).toNat = c.toNat * 4096 + x.val * 256 + kk.toNat := by
  simp only [formatXKK, append_toNat, regBits_toNat]; omega

theorem formatXYN_toNat (c : BitVec 4) (x y : Reg) (n : Fin 16) :
    (formatXYN c x y n).toNat = c.toNat * 4096 + x.val * 256 + y.val * 16 + n.val := by
  simp only [formatXYN, append_toNat, regBits_toNat]; omega

/-! ### Fields of a format -/

@[simp] theorem fieldClass_formatNNN (c : BitVec 4) (nnn : Addr12) : fieldClass (formatNNN c nnn) = c := by
  apply BitVec.eq_of_toNat_eq; rw [fieldClass_toNat, formatNNN_toNat]; omega

@[simp] theorem fieldNNN_formatNNN (c : BitVec 4) (nnn : Addr12) : fieldNNN (formatNNN c nnn) = nnn := by
  apply BitVec.eq_of_toNat_eq; rw [fieldNNN_toNat, formatNNN_toNat]; omega

@[simp] theorem fieldClass_formatXKK (c : BitVec 4) (x : Reg) (kk : Byte) : fieldClass (formatXKK c x kk) = c := by
  apply BitVec.eq_of_toNat_eq; rw [fieldClass_toNat, formatXKK_toNat]; omega

@[simp] theorem fieldX_formatXKK (c : BitVec 4) (x : Reg) (kk : Byte) : fieldX (formatXKK c x kk) = x := by
  apply Fin.ext; rw [fieldX_val, formatXKK_toNat]; omega

@[simp] theorem fieldKK_formatXKK (c : BitVec 4) (x : Reg) (kk : Byte) : fieldKK (formatXKK c x kk) = kk := by
  apply BitVec.eq_of_toNat_eq; rw [fieldKK_toNat, formatXKK_toNat]; omega

@[simp] theorem fieldClass_formatXYN (c : BitVec 4) (x y : Reg) (n : Fin 16) : fieldClass (formatXYN c x y n) = c := by
  apply BitVec.eq_of_toNat_eq; rw [fieldClass_toNat, formatXYN_toNat]; omega

@[simp] theorem fieldX_formatXYN (c : BitVec 4) (x y : Reg) (n : Fin 16) : fieldX (formatXYN c x y n) = x := by
  apply Fin.ext; rw [fieldX_val, formatXYN_toNat]; omega

@[simp] theorem fieldY_formatXYN (c : BitVec 4) (x y : Reg) (n : Fin 16) : fieldY (formatXYN c x y n) = y := by
  apply Fin.ext; rw [fieldY_val, formatXYN_toNat]; omega

@[simp] theorem fieldN_formatXYN (c : BitVec 4) (x y : Reg) (n : Fin 16) : fieldN (formatXYN c x y n) = n := by
  apply Fin.ext; rw [fieldN_val, formatXYN_toNat]; omega

/-! ### A word is its fields put together again -/

theorem formatNNN_fields (w : Word) : formatNNN (fieldClass w) (fieldNNN w) = w := by
  apply BitVec.eq_of_toNat_eq; rw [formatNNN_toNat, fieldClass_toNat, fieldNNN_toNat]; omega

theorem formatXKK_fields (w : Word) : formatXKK (fieldClass w) (fieldX w) (fieldKK w) = w := by
  apply BitVec.eq_of_toNat_eq; rw [formatXKK_toNat, fieldClass_toNat, fieldX_val, fieldKK_toNat]; omega

theorem formatXYN_fields (w : Word) : formatXYN (fieldClass w) (fieldX w) (fieldY w) (fieldN w) = w := by
  apply BitVec.eq_of_toNat_eq
  rw [formatXYN_toNat, fieldClass_toNat, fieldX_val, fieldY_val, fieldN_val]; omega

/-- The class is one of sixteen (R41). -/
theorem fieldClass_cases (w : Word) :
    fieldClass w = 0x0 ∨ fieldClass w = 0x1 ∨ fieldClass w = 0x2 ∨ fieldClass w = 0x3 ∨ fieldClass w = 0x4 ∨
    fieldClass w = 0x5 ∨ fieldClass w = 0x6 ∨ fieldClass w = 0x7 ∨ fieldClass w = 0x8 ∨ fieldClass w = 0x9 ∨
    fieldClass w = 0xA ∨ fieldClass w = 0xB ∨ fieldClass w = 0xC ∨ fieldClass w = 0xD ∨ fieldClass w = 0xE ∨
    fieldClass w = 0xF := by
  generalize fieldClass w = c
  revert c; decide

/-! ### Bytes of a word -/

theorem wordOfBytes_toNat (hi lo : Byte) : (wordOfBytes hi lo).toNat = hi.toNat * 256 + lo.toNat := append_toNat hi lo

@[simp] theorem wordOfBytes_bytes (w : Word) : wordOfBytes (highByte w) (lowByte w) = w := by
  apply BitVec.eq_of_toNat_eq
  rw [wordOfBytes_toNat]
  simp [highByte, lowByte, Nat.shiftRight_eq_div_pow]
  omega

/-! ### The masks of the opcode map (R43) as numbers -/

theorem and_mask_F000 (w : Word) : (w &&& 0xF000#16).toNat = w.toNat / 4096 * 4096 := by
  have hw : w = fieldClass w ++ fieldNNN w := by
    apply BitVec.eq_of_toNat_eq; rw [append_toNat, fieldClass_toNat, fieldNNN_toNat]; omega
  have h : w &&& 0xF000#16 = fieldClass w ++ 0#12 := by
    conv_lhs => rw [hw, show 0xF000#16 = 0xF#4 ++ 0x000#12 from rfl, BitVec.and_append]
    rw [show 0xF#4 = BitVec.allOnes 4 from rfl, BitVec.and_allOnes, BitVec.and_zero]
  rw [h, append_toNat, fieldClass_toNat]; simp

theorem and_mask_F00F (w : Word) : (w &&& 0xF00F#16).toNat = w.toNat / 4096 * 4096 + w.toNat % 16 := by
  have hw : w = fieldClass w ++ (w.extractLsb' 4 8 ++ regBits (fieldN w)) := by
    apply BitVec.eq_of_toNat_eq
    rw [append_toNat, append_toNat, fieldClass_toNat, regBits_toNat, fieldN_val]
    simp [Nat.shiftRight_eq_div_pow]; omega
  have h : w &&& 0xF00F#16 = fieldClass w ++ (0#8 ++ regBits (fieldN w)) := by
    conv_lhs =>
      rw [hw, show 0xF00F#16 = 0xF#4 ++ (0x00#8 ++ 0xF#4) from rfl, BitVec.and_append, BitVec.and_append]
    rw [show 0xF#4 = BitVec.allOnes 4 from rfl, BitVec.and_allOnes, BitVec.and_allOnes, BitVec.and_zero]
  rw [h, append_toNat, append_toNat, fieldClass_toNat, regBits_toNat, fieldN_val]; simp

theorem and_mask_F0FF (w : Word) : (w &&& 0xF0FF#16).toNat = w.toNat / 4096 * 4096 + w.toNat % 256 := by
  have hw : w = fieldClass w ++ (regBits (fieldX w) ++ fieldKK w) := by
    apply BitVec.eq_of_toNat_eq
    rw [append_toNat, append_toNat, fieldClass_toNat, regBits_toNat, fieldX_val, fieldKK_toNat]; omega
  have h : w &&& 0xF0FF#16 = fieldClass w ++ (0#4 ++ fieldKK w) := by
    conv_lhs =>
      rw [hw, show 0xF0FF#16 = 0xF#4 ++ (0x0#4 ++ 0xFF#8) from rfl, BitVec.and_append, BitVec.and_append]
    rw [show 0xF#4 = BitVec.allOnes 4 from rfl, show 0xFF#8 = BitVec.allOnes 8 from rfl, BitVec.and_allOnes,
      BitVec.and_allOnes, BitVec.and_zero]
  rw [h, append_toNat, append_toNat, fieldClass_toNat, fieldKK_toNat]; simp

theorem and_mask_FFFF (w : Word) : (w &&& 0xFFFF#16).toNat = w.toNat := by
  rw [show 0xFFFF#16 = BitVec.allOnes 16 from rfl, BitVec.and_allOnes]

/-- A row is selected when the masked word is the row's pattern, as numbers. -/
theorem OpRow.selects_iff (r : OpRow) (w : Word) : r.selects w = true ↔ (w &&& r.mask).toNat = r.pat.toNat := by
  simp [OpRow.selects, BitVec.toNat_eq]

theorem selects_FFFF (m : String) (p w : Word) :
    (OpRow.mk m p 0xFFFF).selects w = true ↔ w.toNat = p.toNat := by
  rw [OpRow.selects_iff]; exact Eq.congr (and_mask_FFFF w) rfl

theorem selects_F000 (m : String) (p w : Word) :
    (OpRow.mk m p 0xF000).selects w = true ↔ w.toNat / 4096 * 4096 = p.toNat := by
  rw [OpRow.selects_iff]; exact Eq.congr (and_mask_F000 w) rfl

theorem selects_F00F (m : String) (p w : Word) :
    (OpRow.mk m p 0xF00F).selects w = true ↔ w.toNat / 4096 * 4096 + w.toNat % 16 = p.toNat := by
  rw [OpRow.selects_iff]; exact Eq.congr (and_mask_F00F w) rfl

theorem selects_F0FF (m : String) (p w : Word) :
    (OpRow.mk m p 0xF0FF).selects w = true ↔ w.toNat / 4096 * 4096 + w.toNat % 256 = p.toNat := by
  rw [OpRow.selects_iff]; exact Eq.congr (and_mask_F0FF w) rfl

end Sys2Proof
end

