-- ==== Sys2Proof/Laws/Display.lean ====
section
/-! SUPPORT. What the framebuffer controller does, pixel by pixel (spec/43_display.md rule R78). -/

namespace Sys2Proof.Machine

/-- Two framebuffers with the same pixels are equal. -/
theorem framebuffer_ext {f g : Framebuffer} (h : ∀ p, pixelAt f p = pixelAt g p) : f = g := by
  apply Vector.ext; intro r hr
  apply Vector.ext; intro c hc
  exact h (⟨r, hr⟩, ⟨c, hc⟩)

/-- Every pixel of the cleared display is off. -/
@[simp] theorem pixelAt_displayClear (p : Pixel) : pixelAt displayClear p = false := by
  simp [pixelAt, displayClear]

/-- Inverting a pixel changes that pixel only. -/
theorem pixelAt_flipPixel (f : Framebuffer) (p q : Pixel) :
    pixelAt (flipPixel f p) q = if q = p then !pixelAt f p else pixelAt f q := by
  obtain ⟨pr, pc⟩ := p
  obtain ⟨qr, qc⟩ := q
  by_cases hr : qr = pr
  · subst hr
    by_cases hc : qc = pc
    · subst hc; simp [pixelAt, flipPixel]
    · have : pc.val ≠ qc.val := fun h => hc (Fin.ext h.symm)
      simp [pixelAt, flipPixel, hc, this]
  · have : pr.val ≠ qr.val := fun h => hr (Fin.ext h.symm)
    simp [pixelAt, flipPixel, hr, this]

/-- Everything the drawing of distinct pixels does: each of them is inverted, no other, and the collision is that
one of them was on. -/
theorem foldl_drawPixel_spec (ps : List Pixel) (hn : ps.Nodup) (f : Framebuffer) (c : Bool) :
    (∀ q, pixelAt (ps.foldl drawPixel (f, c)).1 q = if q ∈ ps then !pixelAt f q else pixelAt f q) ∧
    (ps.foldl drawPixel (f, c)).2 = (c || ps.any (pixelAt f)) := by
  induction ps generalizing f c with
  | nil => simp
  | cons p rest ih =>
    obtain ⟨hp, hn⟩ := List.nodup_cons.1 hn
    obtain ⟨h1, h2⟩ := ih hn (flipPixel f p) (c || pixelAt f p)
    refine ⟨fun q => ?_, ?_⟩
    · rw [List.foldl_cons, drawPixel, h1, pixelAt_flipPixel]
      by_cases hq : q = p
      · subst hq; simp [hp]
      · simp [hq]
    · have hany : rest.any (pixelAt (flipPixel f p)) = rest.any (pixelAt f) := by
        rw [Bool.eq_iff_iff, List.any_eq_true, List.any_eq_true]
        refine exists_congr fun q => and_congr_right fun hq => ?_
        rw [pixelAt_flipPixel, if_neg (fun h : q = p => hp (h ▸ hq))]
      rw [List.foldl_cons, drawPixel, h2, hany, List.any_cons, Bool.or_assoc]

/-- The pixels of one sprite row: those under its 1 bits, bit 7 leftmost, wrapped. -/
theorem mem_rowPixels {x0 y0 : Byte} {r : Nat} {b : Byte} {p : Pixel} :
    p ∈ rowPixels x0 y0 r b ↔ ∃ c < 8, b.getLsbD (7 - c) = true ∧
      p.1.val = (y0.toNat + r) % 32 ∧ p.2.val = (x0.toNat + c) % 64 := by
  have hcols : ∀ c, c ∈ spriteCols ↔ c < 8 := by
    intro c; simp only [spriteCols, List.mem_cons, List.not_mem_nil, or_false]; omega
  simp only [rowPixels, List.mem_map, List.mem_filter, hcols]
  constructor
  · rintro ⟨c, ⟨hc, hb⟩, rfl⟩
    exact ⟨c, hc, hb, rfl, rfl⟩
  · rintro ⟨c, hc, hb, h1, h2⟩
    exact ⟨c, ⟨hc, hb⟩, Prod.ext (Fin.ext h1.symm) (Fin.ext h2.symm)⟩

/-- The pixels of a sprite: those under a 1 bit of some row. -/
theorem mem_spritePixels {x0 y0 : Byte} {r : Nat} {rows : List Byte} {p : Pixel} :
    p ∈ spritePixels x0 y0 r rows ↔ ∃ k b, rows[k]? = some b ∧ ∃ c < 8, b.getLsbD (7 - c) = true ∧
      p.1.val = (y0.toNat + (r + k)) % 32 ∧ p.2.val = (x0.toNat + c) % 64 := by
  induction rows generalizing r with
  | nil => simp [spritePixels]
  | cons b rest ih =>
    rw [spritePixels, List.mem_append, mem_rowPixels, ih]
    constructor
    · rintro (h | ⟨k, b', hk, h⟩)
      · exact ⟨0, b, rfl, h⟩
      · exact ⟨k + 1, b', hk, by simpa only [Nat.add_assoc, Nat.add_comm 1 k] using h⟩
    · rintro ⟨k, b', hk, h⟩
      cases k with
      | zero => exact Or.inl (by simp only [List.getElem?_cons_zero, Option.some.injEq] at hk; exact hk ▸ h)
      | succ k => exact Or.inr ⟨k, b', hk, by simpa only [Nat.add_assoc, Nat.add_comm 1 k] using h⟩

/-- A row is 8 < 64 pixels wide, so no pixel of it comes twice. -/
theorem rowPixels_nodup (x0 y0 : Byte) (r : Nat) (b : Byte) : (rowPixels x0 y0 r b).Nodup := by
  refine List.Nodup.map_on ?_ ((show spriteCols.Nodup by decide).filter _)
  intro c hc d hd h
  have hcols : ∀ c ∈ spriteCols, c < 8 := by decide
  have h1 := hcols c (List.mem_filter.1 hc).1
  have h2 := hcols d (List.mem_filter.1 hd).1
  have := congrArg (fun p : Pixel => p.2.val) h
  simp only [Fin.ofNat_eq_cast, Fin.val_natCast] at this
  omega

/-- A sprite has at most 32 rows, so no pixel comes twice in one call (R78). -/
theorem spritePixels_nodup (x0 y0 : Byte) (r : Nat) (rows : List Byte) (h : rows.length ≤ 32) :
    (spritePixels x0 y0 r rows).Nodup := by
  induction rows generalizing r with
  | nil => exact List.nodup_nil
  | cons b rest ih =>
    simp only [List.length_cons] at h
    rw [spritePixels, List.nodup_append']
    refine ⟨rowPixels_nodup x0 y0 r b, ih (r + 1) (by omega), ?_⟩
    intro p hp hq
    obtain ⟨c, _, _, h1, _⟩ := mem_rowPixels.1 hp
    obtain ⟨k, b', hk, c', _, _, h3, _⟩ := mem_spritePixels.1 hq
    have : k < rest.length := (List.getElem?_eq_some_iff.1 hk).1
    omega

/-- Everything `DisplayDraw` does with at most 32 rows: the sprite's pixels are inverted, no other, and the
collision is that one of them was on. -/
theorem displayDraw_spec (f : Framebuffer) (x0 y0 : Byte) (rows : List Byte) (h : rows.length ≤ 32) :
    (∀ q, pixelAt (displayDraw f x0 y0 rows).1 q =
      if q ∈ spritePixels x0 y0 0 rows then !pixelAt f q else pixelAt f q) ∧
    (displayDraw f x0 y0 rows).2 = (spritePixels x0 y0 0 rows).any (pixelAt f) := by
  have := foldl_drawPixel_spec _ (spritePixels_nodup x0 y0 0 rows h) f false
  simpa [displayDraw] using this

end Sys2Proof.Machine
end

