-- ==== Sys2Proof/Laws/Memory.lean ====
section
/-! SUPPORT. What the memory operations do: read after write, the canonical form kept, and one specification
lemma for each multi-byte operation (spec/20_memory.md rules R28, R38). -/

namespace Sys2Proof.Machine

/-! ### The canonical form -/

theorem Memory.wfFrom_cons {lo a : Nat} {b : Byte} {m : Memory} :
    Memory.wfFrom lo ((a, b) :: m) = true ↔ lo ≤ a ∧ a < memSize ∧ b ≠ 0x00#8 ∧ Memory.wfFrom (a + 1) m = true := by
  simp [Memory.wfFrom, and_assoc]

theorem Memory.wfFrom_mono {lo lo' : Nat} {m : Memory} (h : lo ≤ lo') (hm : Memory.wfFrom lo' m = true) :
    Memory.wfFrom lo m = true := by
  cases m with
  | nil => rfl
  | cons c m =>
    obtain ⟨a, b⟩ := c
    rw [Memory.wfFrom_cons] at hm ⊢
    exact ⟨by omega, hm.2⟩

/-- Below the first listed address memory reads 0x00. -/
theorem Memory.read_below {lo a : Nat} {m : Memory} (hm : Memory.wfFrom lo m = true) (h : a < lo) :
    m.read a = 0x00#8 := by
  cases m with
  | nil => rfl
  | cons c m =>
    obtain ⟨k, b⟩ := c
    rw [Memory.wfFrom_cons] at hm
    simp only [Memory.read]
    rw [if_pos (by omega)]

/-- A byte written inside memory keeps the canonical form. -/
theorem Memory.wfFrom_write {lo a : Nat} {x : Byte} {m : Memory} (hm : Memory.wfFrom lo m = true) (hlo : lo ≤ a)
    (ha : a < memSize) : Memory.wfFrom lo (m.write a x) = true := by
  induction m generalizing lo with
  | nil =>
    simp only [Memory.write]
    split
    · rfl
    · rw [Memory.wfFrom_cons]; exact ⟨hlo, ha, ‹_›, rfl⟩
  | cons c m ih =>
    obtain ⟨k, b⟩ := c
    have hm' := Memory.wfFrom_cons.1 hm
    obtain ⟨h1, h2, h3, h4⟩ := hm'
    simp only [Memory.write]
    split
    · split
      · exact hm
      · rw [Memory.wfFrom_cons, Memory.wfFrom_cons]
        exact ⟨hlo, ha, ‹_›, by omega, h2, h3, h4⟩
    · split
      · split
        · exact Memory.wfFrom_mono (by omega) h4
        · rw [Memory.wfFrom_cons]; subst a; exact ⟨hlo, ha, ‹_›, h4⟩
      · rw [Memory.wfFrom_cons]
        exact ⟨h1, h2, h3, ih h4 (by omega)⟩

/-- Memory keeps its canonical form under every write inside memory. -/
theorem Memory.wf_write {a : Nat} {x : Byte} {m : Memory} (hm : m.wf = true) (ha : a < memSize) :
    (m.write a x).wf = true := Memory.wfFrom_write hm (Nat.zero_le a) ha

/-- A byte reads as the value last written there, and a write leaves every other byte alone. -/
theorem Memory.read_write_from {lo a a' : Nat} {x : Byte} {m : Memory} (hm : Memory.wfFrom lo m = true) :
    (m.write a x).read a' = if a' = a then x else m.read a' := by
  induction m generalizing lo with
  | nil =>
    by_cases hx : x = 0x00#8 <;> by_cases h : a' = a <;> simp [Memory.write, Memory.read, hx, h]
  | cons c m ih =>
    obtain ⟨k, b⟩ := c
    obtain ⟨h1, h2, h3, h4⟩ := Memory.wfFrom_cons.1 hm
    have ih := ih h4
    by_cases hak : a < k
    · by_cases hx : x = 0x00#8
      · simp only [Memory.write, if_pos hak, if_pos hx]
        by_cases h : a' = a
        · subst h; simp [Memory.read, hak, hx]
        · rw [if_neg h]
      · simp only [Memory.write, if_pos hak, if_neg hx]
        by_cases h : a' = a
        · subst h; simp [Memory.read]
        · by_cases h' : a' < a
          · simp [Memory.read, h, h', show a' < k by omega]
          · simp [Memory.read, h, h']
    · by_cases hk : a = k
      · subst hk
        by_cases hx : x = 0x00#8
        · simp only [Memory.write, if_neg hak, if_pos hx, if_true]
          by_cases h : a' = a
          · subst h; rw [if_pos rfl, hx]; exact Memory.read_below h4 (by omega)
          · rw [if_neg h]
            by_cases h' : a' < a
            · simp only [Memory.read, if_pos h']; exact Memory.read_below h4 (by omega)
            · simp [Memory.read, h, h']
        · simp only [Memory.write, if_neg hak, if_neg hx, if_true]
          by_cases h : a' = a
          · subst h; simp [Memory.read]
          · by_cases h' : a' < a <;> simp [Memory.read, h, h']
      · simp only [Memory.write, if_neg hak, if_neg hk, Memory.read, ih]
        by_cases h : a' < k
        · simp [h, show a' ≠ a by omega]
        · by_cases h' : a' = k
          · subst h'; simp [show a' ≠ a by omega]
          · simp [h, h']

theorem Memory.read_write {a a' : Nat} {x : Byte} {m : Memory} (hm : m.wf = true) :
    (m.write a x).read a' = if a' = a then x else m.read a' := Memory.read_write_from hm

/-- Placing bytes keeps the canonical form. -/
theorem Memory.wf_place {m : Memory} (hm : m.wf = true) (a : Nat) (bs : List Byte) : (m.place a bs).wf = true := by
  induction bs generalizing m a with
  | nil => exact hm
  | cons b rest ih =>
    simp only [Memory.place]
    split
    · exact ih (Memory.wf_write hm ‹_›) (a + 1)
    · exact ih hm (a + 1)

/-- Bytes placed inside memory: each at its address, every other address as before. -/
theorem Memory.read_place {m : Memory} (hm : m.wf = true) {a : Nat} {bs : List Byte} (h : a + bs.length ≤ memSize)
    (a' : Nat) : (m.place a bs).read a' = if a ≤ a' then bs[a' - a]?.getD (m.read a') else m.read a' := by
  induction bs generalizing m a with
  | nil => simp [Memory.place]
  | cons b rest ih =>
    simp only [List.length_cons] at h
    simp only [Memory.place, if_pos (show a < memSize by omega)]
    rw [ih (Memory.wf_write hm (by omega)) (by omega), Memory.read_write hm]
    rcases Nat.lt_trichotomy a' a with h' | h' | h'
    · rw [if_neg (by omega), if_neg (by omega), if_neg (by omega)]
    · subst h'; simp
    · rw [if_pos (show a + 1 ≤ a' by omega), if_pos (show a ≤ a' by omega), if_neg (show ¬a' = a by omega),
        show a' - a = (a' - (a + 1)) + 1 by omega, List.getElem?_cons_succ]

/-! ### The primitives (R28) -/

theorem memRead_of_lt {s : State} {a : Nat} (h : a < memSize) : memRead s a = some (s.mem.read a) := if_pos h

theorem memRead_of_ge {s : State} {a : Nat} (h : memSize ≤ a) : memRead s a = none := if_neg (by omega)

theorem memWrite_of_lt {s : State} {a : Nat} {b : Byte} (h : a < memSize) :
    memWrite s a b = some (s.setMem (s.mem.write a b)) := if_pos h

theorem memWrite_of_ge {s : State} {a : Nat} {b : Byte} (h : memSize ≤ a) : memWrite s a b = none := if_neg (by omega)

/-! ### Multi-byte operations (R38) -/

/-- Everything `storeBytes` can do: it completes if the last byte lies in memory, else it fails at the first
address out of range; in both cases memory is all that changes, and on a canonical memory it holds the bytes that
lie inside it, the rest of memory is as before, and the canonical form is kept. -/
theorem storeBytes_spec (bs : List Byte) (a : Nat) (s : State) :
    ∃ m : Memory, (s.mem.wf = true → m.wf = true ∧
        ∀ a' < memSize, m.read a' = if a ≤ a' then bs[a' - a]?.getD (s.mem.read a') else s.mem.read a') ∧
      storeBytes a bs s = if bs = [] ∨ a + bs.length ≤ memSize then .next (s.setMem m)
        else .fault (.invalidAddress (max memSize a) (s.setMem m)) := by
  induction bs generalizing a s with
  | nil => exact ⟨s.mem, fun hm => ⟨hm, by simp⟩, by rw [if_pos (Or.inl rfl)]; rfl⟩
  | cons b rest ih =>
    by_cases ha : a < memSize
    · obtain ⟨m, h3, h4⟩ := ih (a + 1) (s.setMem (s.mem.write a b))
      refine ⟨m, fun hm => ?_, ?_⟩
      · obtain ⟨h2, h3⟩ := h3 (Memory.wf_write hm ha)
        refine ⟨h2, fun a' ha' => ?_⟩
        rw [h3 a' ha', State.setMem_mem, Memory.read_write hm]
        rcases Nat.lt_trichotomy a' a with h' | h' | h'
        · rw [if_neg (by omega), if_neg (by omega), if_neg (by omega)]
        · subst h'; simp
        · rw [if_pos (show a + 1 ≤ a' by omega), if_pos (show a ≤ a' by omega), if_neg (show ¬a' = a by omega),
            show a' - a = (a' - (a + 1)) + 1 by omega, List.getElem?_cons_succ]
      · simp only [storeBytes, memWrite_of_lt ha, h4, List.length_cons]
        by_cases hr : rest = []
        · subst hr; rw [if_pos (Or.inl rfl), if_pos (Or.inr (by simp; omega))]; rfl
        · by_cases hl : a + 1 + rest.length ≤ memSize
          · rw [if_pos (Or.inr hl), if_pos (Or.inr (by omega))]; rfl
          · rw [if_neg (by simp [hr]; omega), if_neg (by simp; omega),
              show max memSize (a + 1) = max memSize a by omega]; rfl
    · refine ⟨s.mem, fun hm => ⟨hm, fun a' ha' => by rw [if_neg (by omega)]⟩, ?_⟩
      simp only [storeBytes, memWrite_of_ge (Nat.le_of_not_lt ha), raiseError]
      rw [if_neg (by simp; omega), show max memSize a = a by omega]; rfl

/-- Everything `loadBytes` can do on distinct registers: it completes if the last byte lies in memory, else it
fails at the first address out of range; in both cases the `k`-th register holds the `k`-th byte if that lies in
memory, and every other register and the rest of the state are as before. -/
theorem loadBytes_spec (rs : List Reg) (a : Nat) (s : State) (hn : rs.Nodup) :
    ∃ f : Vector Byte 16,
      (∀ k r, rs[k]? = some r → a + k < memSize → f[r] = s.mem.read (a + k)) ∧
      (∀ r, (∀ k, rs[k]? = some r → memSize ≤ a + k) → f[r] = s.v[r]) ∧
      loadBytes a rs s = if rs = [] ∨ a + rs.length ≤ memSize then .next { s with v := f }
        else .fault (.invalidAddress (max memSize a) { s with v := f }) := by
  induction rs generalizing a s with
  | nil => exact ⟨s.v, by simp, by simp, by rw [if_pos (Or.inl rfl)]; rfl⟩
  | cons r rest ih =>
    obtain ⟨hr, hn⟩ := List.nodup_cons.1 hn
    by_cases ha : a < memSize
    · obtain ⟨f, h2, h3, h4⟩ := ih (a + 1) (s.setV r (s.mem.read a)) hn
      have hset : ∀ q : Reg, (s.setV r (s.mem.read a)).v[q] = if q = r then s.mem.read a else s.v[q] :=
        fun q => State.getV_setV s r q (s.mem.read a)
      refine ⟨f, ?_, ?_, ?_⟩
      · intro k q hk hlt
        cases k with
        | zero =>
          simp only [List.getElem?_cons_zero, Option.some.injEq] at hk
          subst hk
          rw [h3 r (fun k hk => absurd (List.mem_of_getElem? hk) hr), hset, if_pos rfl]; rfl
        | succ k =>
          rw [List.getElem?_cons_succ] at hk
          rw [h2 k q hk (by omega), State.setV_mem, show a + 1 + k = a + (k + 1) by omega]
      · intro q hq
        have hqr : q ≠ r := by
          rintro rfl
          have := hq 0 rfl
          omega
        rw [h3 q (fun k hk => by have := hq (k + 1) hk; omega), hset, if_neg hqr]
      · simp only [loadBytes, memRead_of_lt ha, h4, List.length_cons]
        by_cases hr : rest = []
        · subst hr; rw [if_pos (Or.inl rfl), if_pos (Or.inr (by simp; omega))]; rfl
        · by_cases hl : a + 1 + rest.length ≤ memSize
          · rw [if_pos (Or.inr hl), if_pos (Or.inr (by omega))]; rfl
          · rw [if_neg (by simp [hr]; omega), if_neg (by simp; omega),
              show max memSize (a + 1) = max memSize a by omega]; rfl
    · refine ⟨s.v, fun k q _ h => by omega, fun _ _ => rfl, ?_⟩
      simp only [loadBytes, memRead_of_ge (Nat.le_of_not_lt ha), raiseError]
      rw [if_neg (by simp; omega), show max memSize a = a by omega]

/-- The registers `V[0]` to `V[x]` in ascending order: the `k`-th is register `k`. -/
theorem getElem?_regsUpTo (x : Reg) (k : Nat) (r : Reg) : (regsUpTo x)[k]? = some r ↔ r.val = k ∧ k ≤ x.val := by
  have hall : ∀ k (r : Reg), allRegs[k]? = some r ↔ r.val = k := by
    intro k r
    by_cases hk : k < 16
    · have : ∀ (k r : Fin 16), allRegs[k.val]? = some r ↔ r.val = k.val := by decide
      exact this ⟨k, hk⟩ r
    · rw [List.getElem?_eq_none (show allRegs.length ≤ k by simp [allRegs]; omega)]
      simp; omega
  rw [regsUpTo, List.getElem?_take]
  split
  · rw [hall]; omega
  · simp; omega

theorem length_regsUpTo (x : Reg) : (regsUpTo x).length = x.val + 1 := by
  rw [regsUpTo, List.length_take, show allRegs.length = 16 from rfl]; omega

theorem nodup_regsUpTo (x : Reg) : (regsUpTo x).Nodup :=
  (List.take_sublist _ _).nodup (show allRegs.Nodup by decide)

/-- The bytes `store-registers` stores: the `k`-th is `V[k]`. -/
theorem getElem?_blockBytes (s : State) (x k : Reg) (h : k.val ≤ x.val) : (blockBytes s x)[k.val]? = some (s.getV k) := by
  rw [blockBytes, List.getElem?_map, (getElem?_regsUpTo x k.val k).2 ⟨rfl, h⟩]; rfl

theorem length_blockBytes (s : State) (x : Reg) : (blockBytes s x).length = x.val + 1 := by
  rw [blockBytes, List.length_map, length_regsUpTo]

/-- Everything `readRows` can do: the bytes from `a` on if the last lies in memory, else the first address out of
range. -/
theorem readRows_spec (s : State) (n a : Nat) :
    readRows s a n = if n = 0 ∨ a + n ≤ memSize then .ok ((List.range n).map fun r => s.mem.read (a + r))
      else .error (max memSize a) := by
  induction n generalizing a with
  | zero => simp [readRows]
  | succ n ih =>
    by_cases ha : a < memSize
    · simp only [readRows, memRead_of_lt ha, ih]
      by_cases hn : n = 0
      · subst hn; simp [show a + 1 ≤ memSize by omega]
      · by_cases hl : a + 1 + n ≤ memSize
        · rw [if_pos (Or.inr hl), if_pos (Or.inr (by omega))]
          simp only [List.range_succ_eq_map, List.map_cons, List.map_map, Nat.add_zero]
          congr 2
          refine List.map_congr_left fun r _ => ?_
          simp only [Function.comp_apply, Nat.succ_eq_add_one]
          rw [show a + 1 + r = a + (r + 1) by omega]
        · rw [if_neg (by omega), if_neg (by omega), show max memSize (a + 1) = max memSize a by omega]
    · simp only [readRows, memRead_of_ge (Nat.le_of_not_lt ha)]
      rw [if_neg (by omega), show max memSize a = a by omega]

end Sys2Proof.Machine
end

