-- ==== Sys2Proof/Laws/Step.lean ====
section
/-! SUPPORT. What the return stack, the fetch, the step and the placing of an instruction word do
(spec/10_state.md rule R16, spec/20_memory.md rule R29, spec/45_host_operations.md rule R90). -/

namespace Sys2Proof.Machine

/-! ### Statement sequencing and errors -/

@[simp] theorem andThen_next (s : State) (f : State → Result) : andThen (.next s) f = f s := rfl
@[simp] theorem andThen_fault (e : Fault) (f : State → Result) : andThen (.fault e) f = .fault e := rfl

/-- A sequence answers a next state exactly through the state its first part leaves. -/
theorem andThen_eq_next {r : Result} {f : State → Result} {t : State} :
    andThen r f = .next t ↔ ∃ s, r = .next s ∧ f s = .next t := by
  cases r <;> simp [andThen]

/-- A sequence fails in its first part or in its second. -/
theorem andThen_eq_fault {r : Result} {f : State → Result} {e : Fault} :
    andThen r f = .fault e ↔ r = .fault e ∨ ∃ s, r = .next s ∧ f s = .fault e := by
  cases r <;> simp [andThen]

/-! ### The return stack (R16) -/

/-- Everything `Push` can do. -/
theorem push_spec (s : State) (w : Word) :
    (s.sp.val = 16 ∧ push s w = none) ∨
    ∃ t, s.sp.val < 16 ∧ push s w = some t ∧ t.sp.val = s.sp.val + 1 ∧
      (∀ k : Fin 16, t.stk[k] = if k.val = s.sp.val then w else s.stk[k]) ∧ t = { s with stk := t.stk, sp := t.sp } := by
  by_cases h : s.sp.val < 16
  · refine Or.inr ⟨_, h, dif_pos h, rfl, fun k => ?_, rfl⟩
    simp [Vector.getElem_set, eq_comm]
  · exact Or.inl ⟨by omega, dif_neg h⟩

/-- Everything `Pop` can do. -/
theorem pop_spec (s : State) :
    (s.sp.val = 0 ∧ pop s = none) ∨
    ∃ w t, pop s = some (w, t) ∧ t.sp.val + 1 = s.sp.val ∧
      (∀ k : Fin 16, k.val + 1 = s.sp.val → w = s.stk[k]) ∧ t = { s with sp := t.sp } := by
  by_cases h : 0 < s.sp.val
  · refine Or.inr ⟨_, _, dif_pos h, by simp; omega, fun k hk => ?_, rfl⟩
    simp only [Fin.getElem_fin]
    congr 1; omega
  · exact Or.inl ⟨by omega, dif_neg h⟩

/-! ### Fetch, decode, step (R29, R45, R90) -/

/-- Everything `Fetch` can do. -/
theorem fetch_spec (s : State) :
    fetch s = if s.pc.toNat + 1 < memSize then
        .ok (wordOfBytes (s.mem.read s.pc.toNat) (s.mem.read (s.pc.toNat + 1)))
      else .error (max memSize s.pc.toNat) := by
  unfold fetch
  by_cases h : s.pc.toNat < memSize
  · rw [memRead_of_lt h]
    by_cases h' : s.pc.toNat + 1 < memSize
    · rw [memRead_of_lt h', if_pos h']
    · rw [memRead_of_ge (by omega), if_neg h', show max memSize s.pc.toNat = s.pc.toNat + 1 by omega]
  · rw [memRead_of_ge (by omega), if_neg (by omega), show max memSize s.pc.toNat = s.pc.toNat by omega]

/-- The fetch reads `pc` and memory only. -/
theorem fetch_congr {s t : State} (hpc : t.pc = s.pc) (hm : t.mem = s.mem) : fetch t = fetch s := by
  rw [fetch_spec, fetch_spec, hpc, hm]

/-- So does fetch and decode together. -/
theorem fetchInstr_congr {s t : State} (h : fetch t = fetch s) : fetchInstr t = fetchInstr s := by
  rw [fetchInstr, fetchInstr, h]

/-- Everything the fetch and the decode can answer: an instruction, with `pc` low enough, or an error to raise. -/
theorem fetchInstr_ok {s : State} {i : Instr} :
    fetchInstr s = .ok i ↔ ∃ w, fetch s = .ok w ∧ decodeWord w = .ok i := by
  unfold fetchInstr
  cases hf : fetch s with
  | error a => simp
  | ok w => cases hd : decodeWord w <;> simp [hd]

/-- A word can be fetched only at 0x0FFE or below. -/
theorem pc_of_fetch {s : State} {w : Word} (h : fetch s = .ok w) : s.pc.toNat + 1 < memSize := by
  rw [fetch_spec] at h
  by_contra hc
  simp [if_neg hc] at h

/-- Everything a step can do: run the decoded instruction, or fail in the fetch or in the decode with the state
unchanged. -/
theorem step_cases (s : State) :
    (∃ i, fetchInstr s = .ok i ∧ step s = exec i s) ∨
    (memSize ≤ s.pc.toNat + 1 ∧ step s = .fault (.invalidAddress (max memSize s.pc.toNat) s)) ∨
    (∃ w, fetch s = .ok w ∧ (∃ r, decodeWord w = .error r) ∧ step s = .fault (.undefinedOpcode w s)) := by
  by_cases h : s.pc.toNat + 1 < memSize
  · have hf : fetch s = .ok _ := (fetch_spec s).trans (if_pos h)
    cases hd : decodeWord (wordOfBytes (s.mem.read s.pc.toNat) (s.mem.read (s.pc.toNat + 1))) with
    | ok i => exact Or.inl ⟨i, fetchInstr_ok.2 ⟨_, hf, hd⟩, by simp [step, fetchInstr, hf, hd]⟩
    | error r => exact Or.inr (Or.inr ⟨_, hf, ⟨r, hd⟩, by simp [step, fetchInstr, hf, hd, raiseError]⟩)
  · have hf : fetch s = .error _ := (fetch_spec s).trans (if_neg h)
    exact Or.inr (Or.inl ⟨by omega, by simp [step, fetchInstr, hf, raiseError]⟩)

/-- A step answers a next state only by running the decoded instruction. -/
theorem step_next {s t : State} (h : step s = .next t) : ∃ i, fetchInstr s = .ok i ∧ exec i s = .next t := by
  rcases step_cases s with ⟨i, hi, hs⟩ | ⟨_, hs⟩ | ⟨_, _, _, hs⟩
  · exact ⟨i, hi, hs ▸ h⟩
  · rw [hs] at h; cases h
  · rw [hs] at h; cases h

/-- The word placed at `pc` is the word the next step fetches, and memory keeps its canonical form. -/
theorem fetch_placeWordAtPc (s : State) (w : Word) (hm : s.mem.wf = true) (h : s.pc.toNat + 1 < memSize) :
    fetch (placeWordAtPc s w) = .ok w ∧ (placeWordAtPc s w).mem.wf = true := by
  have h1 := Memory.wf_write (x := highByte w) hm (show s.pc.toNat < memSize by omega)
  have h2 := Memory.wf_write (x := lowByte w) h1 h
  rw [placeWordAtPc, if_pos h]
  refine ⟨?_, h2⟩
  rw [fetch_spec, State.setMem_pc, if_pos h, State.setMem_mem, Memory.read_write h1, Memory.read_write h1,
    Memory.read_write hm, if_neg (by omega), if_pos rfl, if_pos rfl, wordOfBytes_bytes]

end Sys2Proof.Machine
end

