-- ==== Sys2Proof/Laws/HostOps.lean ====
section
/-! SUPPORT. What the key query, the wait and the host's `setKey` do (spec/10_state.md rules R21, R22,
spec/45_host_operations.md rule R92). -/

namespace Sys2Proof.Machine

/-- `KeyPressed` answers the flag of every key number up to 0xF. -/
theorem keyPressed_of_lt {s : State} {k : Nat} (h : k < 16) : keyPressed s k = some s.key[k] := dif_pos h

/-- `KeyPressed` fails above 0xF. -/
theorem keyPressed_of_ge {s : State} {k : Nat} (h : 16 ≤ k) : keyPressed s k = none := dif_neg (by omega)

/-- The fetched instruction depends on `pc` and memory alone. -/
theorem fetchInstr_of_pc_mem {s t : State} (hpc : t.pc = s.pc) (hm : t.mem = s.mem) : fetchInstr t = fetchInstr s :=
  fetchInstr_congr (fetch_congr hpc hm)

/-- `waitAtPc` says what its name says. -/
theorem waitAtPc_iff {s : State} : waitAtPc s = true ↔ ∃ x, fetchInstr s = .ok (.waitForKey x) := by
  unfold waitAtPc
  split
  · rename_i x h
    simp [h]
  · rename_i h
    simp only [Bool.false_eq_true, false_iff, not_exists]
    exact fun x hx => h x hx

/-- `setKey` fails above 0xF. -/
theorem setKey_of_ge {k : Nat} {p : Bool} {s : State} (h : 16 ≤ k) : setKey k p s = .error .invalidKey :=
  dif_neg (by omega)

end Sys2Proof.Machine
end

