-- ==== Sys2Proof/Laws/PerInstr.lean ====
section
/-! SUPPORT. Families of statements about every instruction as syntax, one lemma per constructor. -/

/-- An instruction's word selects the row of the opcode map that bears its name (spec/30_encoding.md rule R43). -/
def Sys2Proof.Laws.SelectsItsRow.Statement (i : Sys2Proof.Instr) : Prop :=
  ∃ r ∈ Sys2Proof.opTable, r.mnemonic = Sys2Proof.mnemonicOf i ∧ r.selects (Sys2Proof.encode i) = true

open Sys2Proof

theorem Sys2Proof.Laws.SelectsItsRow.clearScreen : Sys2Proof.Laws.SelectsItsRow.Statement .clearScreen :=
  ⟨⟨"clear-screen", 0x00E0, 0xFFFF⟩, by decide, rfl, by decide⟩

theorem Sys2Proof.Laws.SelectsItsRow.ret : Sys2Proof.Laws.SelectsItsRow.Statement .ret :=
  ⟨⟨"return", 0x00EE, 0xFFFF⟩, by decide, rfl, by decide⟩

theorem Sys2Proof.Laws.SelectsItsRow.jump (nnn : Addr12) : Sys2Proof.Laws.SelectsItsRow.Statement (.jump nnn) := by
  refine ⟨⟨"jump", 0x1000, 0xF000⟩, by decide, rfl, ?_⟩
  rw [selects_F000, encode, formatNNN_toNat]
  simp
  omega

theorem Sys2Proof.Laws.SelectsItsRow.call (nnn : Addr12) : Sys2Proof.Laws.SelectsItsRow.Statement (.call nnn) := by
  refine ⟨⟨"call", 0x2000, 0xF000⟩, by decide, rfl, ?_⟩
  rw [selects_F000, encode, formatNNN_toNat]
  simp
  omega

theorem Sys2Proof.Laws.SelectsItsRow.skipIfEqual (x : Reg) (kk : Byte) : Sys2Proof.Laws.SelectsItsRow.Statement (.skipIfEqual x kk) := by
  refine ⟨⟨"skip-if-equal", 0x3000, 0xF000⟩, by decide, rfl, ?_⟩
  rw [selects_F000, encode, formatXKK_toNat]
  simp
  omega

theorem Sys2Proof.Laws.SelectsItsRow.skipIfNotEqual (x : Reg) (kk : Byte) : Sys2Proof.Laws.SelectsItsRow.Statement (.skipIfNotEqual x kk) := by
  refine ⟨⟨"skip-if-not-equal", 0x4000, 0xF000⟩, by decide, rfl, ?_⟩
  rw [selects_F000, encode, formatXKK_toNat]
  simp
  omega

theorem Sys2Proof.Laws.SelectsItsRow.skipIfRegsEqual (x y : Reg) : Sys2Proof.Laws.SelectsItsRow.Statement (.skipIfRegsEqual x y) := by
  refine ⟨⟨"skip-if-regs-equal", 0x5000, 0xF00F⟩, by decide, rfl, ?_⟩
  rw [selects_F00F, encode, formatXYN_toNat]
  simp
  omega

theorem Sys2Proof.Laws.SelectsItsRow.loadImmediate (x : Reg) (kk : Byte) : Sys2Proof.Laws.SelectsItsRow.Statement (.loadImmediate x kk) := by
  refine ⟨⟨"load-immediate", 0x6000, 0xF000⟩, by decide, rfl, ?_⟩
  rw [selects_F000, encode, formatXKK_toNat]
  simp
  omega

theorem Sys2Proof.Laws.SelectsItsRow.addImmediate (x : Reg) (kk : Byte) : Sys2Proof.Laws.SelectsItsRow.Statement (.addImmediate x kk) := by
  refine ⟨⟨"add-immediate", 0x7000, 0xF000⟩, by decide, rfl, ?_⟩
  rw [selects_F000, encode, formatXKK_toNat]
  simp
  omega

theorem Sys2Proof.Laws.SelectsItsRow.copy (x y : Reg) : Sys2Proof.Laws.SelectsItsRow.Statement (.copy x y) := by
  refine ⟨⟨"copy", 0x8000, 0xF00F⟩, by decide, rfl, ?_⟩
  rw [selects_F00F, encode, formatXYN_toNat]
  simp
  omega

theorem Sys2Proof.Laws.SelectsItsRow.or (x y : Reg) : Sys2Proof.Laws.SelectsItsRow.Statement (.or x y) := by
  refine ⟨⟨"or", 0x8001, 0xF00F⟩, by decide, rfl, ?_⟩
  rw [selects_F00F, encode, formatXYN_toNat]
  simp
  omega

theorem Sys2Proof.Laws.SelectsItsRow.and (x y : Reg) : Sys2Proof.Laws.SelectsItsRow.Statement (.and x y) := by
  refine ⟨⟨"and", 0x8002, 0xF00F⟩, by decide, rfl, ?_⟩
  rw [selects_F00F, encode, formatXYN_toNat]
  simp
  omega

theorem Sys2Proof.Laws.SelectsItsRow.xor (x y : Reg) : Sys2Proof.Laws.SelectsItsRow.Statement (.xor x y) := by
  refine ⟨⟨"xor", 0x8003, 0xF00F⟩, by decide, rfl, ?_⟩
  rw [selects_F00F, encode, formatXYN_toNat]
  simp
  omega

theorem Sys2Proof.Laws.SelectsItsRow.add (x y : Reg) : Sys2Proof.Laws.SelectsItsRow.Statement (.add x y) := by
  refine ⟨⟨"add", 0x8004, 0xF00F⟩, by decide, rfl, ?_⟩
  rw [selects_F00F, encode, formatXYN_toNat]
  simp
  omega

theorem Sys2Proof.Laws.SelectsItsRow.sub (x y : Reg) : Sys2Proof.Laws.SelectsItsRow.Statement (.sub x y) := by
  refine ⟨⟨"sub", 0x8005, 0xF00F⟩, by decide, rfl, ?_⟩
  rw [selects_F00F, encode, formatXYN_toNat]
  simp
  omega

theorem Sys2Proof.Laws.SelectsItsRow.shiftRight (x y : Reg) : Sys2Proof.Laws.SelectsItsRow.Statement (.shiftRight x y) := by
  refine ⟨⟨"shift-right", 0x8006, 0xF00F⟩, by decide, rfl, ?_⟩
  rw [selects_F00F, encode, formatXYN_toNat]
  simp
  omega

theorem Sys2Proof.Laws.SelectsItsRow.subReverse (x y : Reg) : Sys2Proof.Laws.SelectsItsRow.Statement (.subReverse x y) := by
  refine ⟨⟨"sub-reverse", 0x8007, 0xF00F⟩, by decide, rfl, ?_⟩
  rw [selects_F00F, encode, formatXYN_toNat]
  simp
  omega

theorem Sys2Proof.Laws.SelectsItsRow.shiftLeft (x y : Reg) : Sys2Proof.Laws.SelectsItsRow.Statement (.shiftLeft x y) := by
  refine ⟨⟨"shift-left", 0x800E, 0xF00F⟩, by decide, rfl, ?_⟩
  rw [selects_F00F, encode, formatXYN_toNat]
  simp
  omega

theorem Sys2Proof.Laws.SelectsItsRow.skipIfRegsNotEqual (x y : Reg) : Sys2Proof.Laws.SelectsItsRow.Statement (.skipIfRegsNotEqual x y) := by
  refine ⟨⟨"skip-if-regs-not-equal", 0x9000, 0xF00F⟩, by decide, rfl, ?_⟩
  rw [selects_F00F, encode, formatXYN_toNat]
  simp
  omega

theorem Sys2Proof.Laws.SelectsItsRow.setIndex (nnn : Addr12) : Sys2Proof.Laws.SelectsItsRow.Statement (.setIndex nnn) := by
  refine ⟨⟨"set-index", 0xA000, 0xF000⟩, by decide, rfl, ?_⟩
  rw [selects_F000, encode, formatNNN_toNat]
  simp
  omega

theorem Sys2Proof.Laws.SelectsItsRow.jumpWithOffset (nnn : Addr12) : Sys2Proof.Laws.SelectsItsRow.Statement (.jumpWithOffset nnn) := by
  refine ⟨⟨"jump-with-offset", 0xB000, 0xF000⟩, by decide, rfl, ?_⟩
  rw [selects_F000, encode, formatNNN_toNat]
  simp
  omega

theorem Sys2Proof.Laws.SelectsItsRow.randomize (x : Reg) (kk : Byte) : Sys2Proof.Laws.SelectsItsRow.Statement (.randomize x kk) := by
  refine ⟨⟨"randomize", 0xC000, 0xF000⟩, by decide, rfl, ?_⟩
  rw [selects_F000, encode, formatXKK_toNat]
  simp
  omega

theorem Sys2Proof.Laws.SelectsItsRow.draw (x y : Reg) (n : Fin 16) : Sys2Proof.Laws.SelectsItsRow.Statement (.draw x y n) := by
  refine ⟨⟨"draw", 0xD000, 0xF000⟩, by decide, rfl, ?_⟩
  rw [selects_F000, encode, formatXYN_toNat]
  simp
  omega

theorem Sys2Proof.Laws.SelectsItsRow.skipIfKeyPressed (x : Reg) : Sys2Proof.Laws.SelectsItsRow.Statement (.skipIfKeyPressed x) := by
  refine ⟨⟨"skip-if-key-pressed", 0xE09E, 0xF0FF⟩, by decide, rfl, ?_⟩
  rw [selects_F0FF, encode, formatXKK_toNat]
  simp
  omega

theorem Sys2Proof.Laws.SelectsItsRow.skipIfKeyNotPressed (x : Reg) : Sys2Proof.Laws.SelectsItsRow.Statement (.skipIfKeyNotPressed x) := by
  refine ⟨⟨"skip-if-key-not-pressed", 0xE0A1, 0xF0FF⟩, by decide, rfl, ?_⟩
  rw [selects_F0FF, encode, formatXKK_toNat]
  simp
  omega

theorem Sys2Proof.Laws.SelectsItsRow.readDelayTimer (x : Reg) : Sys2Proof.Laws.SelectsItsRow.Statement (.readDelayTimer x) := by
  refine ⟨⟨"read-delay-timer", 0xF007, 0xF0FF⟩, by decide, rfl, ?_⟩
  rw [selects_F0FF, encode, formatXKK_toNat]
  simp
  omega

theorem Sys2Proof.Laws.SelectsItsRow.waitForKey (x : Reg) : Sys2Proof.Laws.SelectsItsRow.Statement (.waitForKey x) := by
  refine ⟨⟨"wait-for-key", 0xF00A, 0xF0FF⟩, by decide, rfl, ?_⟩
  rw [selects_F0FF, encode, formatXKK_toNat]
  simp
  omega

theorem Sys2Proof.Laws.SelectsItsRow.setDelayTimer (x : Reg) : Sys2Proof.Laws.SelectsItsRow.Statement (.setDelayTimer x) := by
  refine ⟨⟨"set-delay-timer", 0xF015, 0xF0FF⟩, by decide, rfl, ?_⟩
  rw [selects_F0FF, encode, formatXKK_toNat]
  simp
  omega

theorem Sys2Proof.Laws.SelectsItsRow.setSoundTimer (x : Reg) : Sys2Proof.Laws.SelectsItsRow.Statement (.setSoundTimer x) := by
  refine ⟨⟨"set-sound-timer", 0xF018, 0xF0FF⟩, by decide, rfl, ?_⟩
  rw [selects_F0FF, encode, formatXKK_toNat]
  simp
  omega

theorem Sys2Proof.Laws.SelectsItsRow.addToIndex (x : Reg) : Sys2Proof.Laws.SelectsItsRow.Statement (.addToIndex x) := by
  refine ⟨⟨"add-to-index", 0xF01E, 0xF0FF⟩, by decide, rfl, ?_⟩
  rw [selects_F0FF, encode, formatXKK_toNat]
  simp
  omega

theorem Sys2Proof.Laws.SelectsItsRow.spriteAddress (x : Reg) : Sys2Proof.Laws.SelectsItsRow.Statement (.spriteAddress x) := by
  refine ⟨⟨"sprite-address", 0xF029, 0xF0FF⟩, by decide, rfl, ?_⟩
  rw [selects_F0FF, encode, formatXKK_toNat]
  simp
  omega

theorem Sys2Proof.Laws.SelectsItsRow.storeBcd (x : Reg) : Sys2Proof.Laws.SelectsItsRow.Statement (.storeBcd x) := by
  refine ⟨⟨"store-BCD", 0xF033, 0xF0FF⟩, by decide, rfl, ?_⟩
  rw [selects_F0FF, encode, formatXKK_toNat]
  simp
  omega

theorem Sys2Proof.Laws.SelectsItsRow.storeRegisters (x : Reg) : Sys2Proof.Laws.SelectsItsRow.Statement (.storeRegisters x) := by
  refine ⟨⟨"store-registers", 0xF055, 0xF0FF⟩, by decide, rfl, ?_⟩
  rw [selects_F0FF, encode, formatXKK_toNat]
  simp
  omega

theorem Sys2Proof.Laws.SelectsItsRow.loadRegisters (x : Reg) : Sys2Proof.Laws.SelectsItsRow.Statement (.loadRegisters x) := by
  refine ⟨⟨"load-registers", 0xF065, 0xF0FF⟩, by decide, rfl, ?_⟩
  rw [selects_F0FF, encode, formatXKK_toNat]
  simp
  omega
end

