-- ==== Sys2Proof/Tests/Slice0.lean ====
section
/-! SUPPORT. Tests of the model on fixed values, and a witness for the hypotheses of every statement. The expected
results are the vectors of spec/95_test_vectors.md, whose names (S1, F1, A1, M1, D1, K1, W1, H1, E1, P1) the comments
give; `pc` is 0x200 unless set. -/

namespace Sys2Proof.Tests

open Sys2Proof Sys2Proof.Machine Sys2Proof.Claims

/-! ### Well-formedness: each check refuses an ill-formed term -/

/-- The bounds of R6: `FONT_BASE` up to 0x1B0, `FONT_IMAGE` up to the program base. -/
theorem test_config_wf : Config.default.wf = true := by decide
theorem test_config_fontBase_max : ({ Config.default with fontBase := 0x1B0 }).wf = true := by decide
theorem test_config_fontBase_illformed : ({ Config.default with fontBase := 0x1B1 }).wf = false := by decide
theorem test_config_fontImage_max : ({ Config.default with fontBase := 0x1AF, fontImage := List.replicate 81 0xF0#8 }).wf = true := by decide
theorem test_config_fontImage_illformed : ({ Config.default with fontBase := 0x1AF, fontImage := List.replicate 82 0xF0#8 }).wf = false := by decide

/-- The image bound of R89 (S5). -/
theorem test_image_max : imageFits (List.replicate 3584 0xFF#8) = true := by
  rw [imageFits, List.length_replicate]; decide
theorem test_image_illformed : imageFits (List.replicate 3585 0xFF#8) = false := by
  rw [imageFits, List.length_replicate]; decide

/-- Every operand of an instruction is in the range of R47 by its type: the extreme values are well-formed. -/
theorem test_instr_wf : (Instr.draw 0xF 0xF 0x0).wf = true ∧ (Instr.jump 0xFFF).wf = true := by decide

/-- The canonical form of memory refuses a listed 0x00, an address outside, a repeat, a wrong order. -/
theorem test_memory_wf : Memory.wf [(0x000, 1), (0xFFF, 2)] = true := by decide
theorem test_memory_zero_illformed : Memory.wf [(0x200, 0)] = false := by decide
theorem test_memory_outside_illformed : Memory.wf [(0x1000, 1)] = false := by decide
theorem test_memory_repeat_illformed : Memory.wf [(0x200, 1), (0x200, 1)] = false := by decide
theorem test_memory_order_illformed : Memory.wf [(0x201, 1), (0x200, 1)] = false := by decide

/-! ### Decoding: words of section 2.1, every constructor -/

theorem test_decode_class0to2 :
    decodeWord 0x00E0 = .ok .clearScreen ∧ decodeWord 0x00EE = .ok .ret ∧ decodeWord 0x1000 = .ok (.jump 0x000) ∧
    decodeWord 0x1FFF = .ok (.jump 0xFFF) ∧ decodeWord 0x2ABC = .ok (.call 0xABC) := by decide

theorem test_decode_class3to7 :
    decodeWord 0x3A7F = .ok (.skipIfEqual 0xA 0x7F) ∧ decodeWord 0x4000 = .ok (.skipIfNotEqual 0x0 0x00) ∧
    decodeWord 0x5120 = .ok (.skipIfRegsEqual 0x1 0x2) ∧ decodeWord 0x6005 = .ok (.loadImmediate 0x0 0x05) ∧
    decodeWord 0x7FFF = .ok (.addImmediate 0xF 0xFF) := by decide

theorem test_decode_class8 :
    decodeWord 0x8120 = .ok (.copy 0x1 0x2) ∧ decodeWord 0x8121 = .ok (.or 0x1 0x2) ∧
    decodeWord 0x8122 = .ok (.and 0x1 0x2) ∧ decodeWord 0x8123 = .ok (.xor 0x1 0x2) ∧
    decodeWord 0x8124 = .ok (.add 0x1 0x2) ∧ decodeWord 0x8125 = .ok (.sub 0x1 0x2) ∧
    decodeWord 0x8126 = .ok (.shiftRight 0x1 0x2) ∧ decodeWord 0x8127 = .ok (.subReverse 0x1 0x2) ∧
    decodeWord 0x812E = .ok (.shiftLeft 0x1 0x2) := by decide

theorem test_decode_class9toD :
    decodeWord 0x9AB0 = .ok (.skipIfRegsNotEqual 0xA 0xB) ∧ decodeWord 0xA123 = .ok (.setIndex 0x123) ∧
    decodeWord 0xB2F0 = .ok (.jumpWithOffset 0x2F0) ∧ decodeWord 0xC0FF = .ok (.randomize 0x0 0xFF) ∧
    decodeWord 0xD7A3 = .ok (.draw 0x7 0xA 0x3) ∧ decodeWord 0xD000 = .ok (.draw 0x0 0x0 0x0) := by decide

theorem test_decode_classEF :
    decodeWord 0xE19E = .ok (.skipIfKeyPressed 0x1) ∧ decodeWord 0xE1A1 = .ok (.skipIfKeyNotPressed 0x1) ∧
    decodeWord 0xF007 = .ok (.readDelayTimer 0x0) ∧ decodeWord 0xF10A = .ok (.waitForKey 0x1) ∧
    decodeWord 0xF215 = .ok (.setDelayTimer 0x2) ∧ decodeWord 0xF318 = .ok (.setSoundTimer 0x3) ∧
    decodeWord 0xF41E = .ok (.addToIndex 0x4) ∧ decodeWord 0xF529 = .ok (.spriteAddress 0x5) ∧
    decodeWord 0xF633 = .ok (.storeBcd 0x6) ∧ decodeWord 0xF755 = .ok (.storeRegisters 0x7) ∧
    decodeWord 0xFF65 = .ok (.loadRegisters 0xF) := by decide

/-- The undefined words of section 2.1. -/
def undefinedWords : List Word :=
  [0x0000, 0x00E1, 0x00FE, 0x01E0, 0x0123, 0x5121, 0x5FF1, 0x8128, 0x8129, 0x812A, 0x812B, 0x812C, 0x812D, 0x812F,
   0x9AB1, 0xE19F, 0xE1A0, 0xE100, 0xE1FF, 0xF000, 0xF1FF, 0xF075, 0xF085, 0xF030, 0xF002, 0xF13A]

theorem test_decode_undefined :
    undefinedWords.map decodeWord = undefinedWords.map (fun w => .error (.undefinedOpcode w)) := by decide

/-- The map R43 as data gives the same instruction a row (D7A3 selects `draw` and nothing else). -/
theorem test_opTable_draw : (opTable.filter (·.selects 0xD7A3)).map OpRow.mnemonic = ["draw"] := by decide

/-- Too few bytes are no instruction. -/
theorem test_decode_truncated : decodeBytes [0x60#8] = .error .truncated := by decide

/-- The host's view of the decoder: the word's high byte is its first in memory (S1). -/
theorem test_decodeTableWord : decodeTableWord 16 0x6005 = some (.loadImmediate 0 5) := by decide

/-! ### Small states -/

/-- The state after reset with `V1`, `V2`, `VF` set and the word `w` at 0x200. -/
def regs (w : Word) (v1 v2 vf : Byte) : State :=
  placeWordAtPc (((State.reset.setV 1 v1).setV 2 v2).setV vF vf) w

/-- The state after reset at `pc` with `V0`, `I` set and the word `w` at `pc`. -/
def atPc (pc : Word) (w : Word) (v0 : Byte) (i : Word) : State :=
  placeWordAtPc (((State.reset.setV 0 v0).setIdx i).setPc pc) w

/-- A byte put into memory. -/
def put (s : State) (a : Nat) (b : Byte) : State := s.setMem (s.mem.write a b)

/-- `n` copies of a return address on the stack. -/
def stacked (s : State) (n : Fin 17) (w : Word) : State := { s with sp := n, stk := Vector.replicate 16 w }

/-- `V1`, `V2`, `VF`, `pc` after a step. -/
def regsOf : Result → Option (Byte × Byte × Byte × Word)
  | .next t => some (t.v[1], t.v[2], t.v[15], t.pc)
  | _ => none

/-- `V0`, `I`, `pc` after a step. -/
def idxOf : Result → Option (Byte × Word × Word)
  | .next t => some (t.v[0], t.idx, t.pc)
  | _ => none

/-- `pc`, `sp` and the entry below `sp` after a step. -/
def flowOf : Result → Option (Word × Nat × Word)
  | .next t => some (t.pc, t.sp.val, t.stk[t.sp.val - 1]?.getD 0)
  | _ => none

/-- Whether a step failed, and the error (R10). -/
def errOf : Result → Option ErrorKind
  | .fault e => some e.kind
  | _ => none

/-- The snapshot indices of the pixels that are on. -/
def litOf (s : State) : List Nat := ((snapshot s).zipIdx.filter (·.1)).map (·.2)

/-! ### Control transfer (section 2.2) -/

-- F1, F2
theorem test_return : flowOf (step (stacked (atPc 0x20C 0x00EE 0 0) 1 0x204)) = some (0x204, 0, 0x204) := by decide
theorem test_return_empty : step (atPc 0x200 0x00EE 0 0) = .fault (.stackUnderflow (atPc 0x200 0x00EE 0 0)) := rfl
-- F4, F7
theorem test_jump : flowOf (step (atPc 0x20A 0x1204 0 0)) = some (0x204, 0, 0) := by decide
theorem test_jump_odd : flowOf (step (atPc 0x200 0x1001 0 0)) = some (0x001, 0, 0) := by decide
-- F9, F10
theorem test_call : flowOf (step (stacked (atPc 0xFFE 0x2300 0 0) 3 0)) = some (0x300, 4, 0x1000) := by decide
theorem test_call_full : errOf (step (stacked (atPc 0x202 0x2208 0 0) 16 0)) = some .stackOverflow := by decide
-- F12, F13
theorem test_skipIfEqual_taken : flowOf (step (atPc 0x208 0x3000 0x00 0)) = some (0x20C, 0, 0) := by decide
theorem test_skipIfEqual_not : flowOf (step (atPc 0x208 0x3000 0x01 0)) = some (0x20A, 0, 0) := by decide
-- F15, F16 with register 0
theorem test_skipIfNotEqual_taken : flowOf (step (atPc 0x300 0x4010 0x11 0)) = some (0x304, 0, 0) := by decide
theorem test_skipIfNotEqual_not : flowOf (step (atPc 0x300 0x4010 0x10 0)) = some (0x302, 0, 0) := by decide
-- F17, F18
theorem test_skipIfRegsEqual_taken : regsOf (step (regs 0x5120 7 7 0)) = some (7, 7, 0, 0x204) := by decide
theorem test_skipIfRegsEqual_not : regsOf (step (regs 0x5120 7 8 0)) = some (7, 8, 0, 0x202) := by decide
-- F20, F21
theorem test_skipIfRegsNotEqual_taken : regsOf (step (regs 0x9120 7 8 0)) = some (7, 8, 0, 0x204) := by decide
theorem test_skipIfRegsNotEqual_not : regsOf (step (regs 0x9120 7 7 0)) = some (7, 7, 0, 0x202) := by decide
-- F25, F26
theorem test_jumpWithOffset_max : flowOf (step (atPc 0x200 0xBFFF 0xFF 0)) = some (0x10FE, 0, 0) := by decide
theorem test_jumpWithOffset_exact : flowOf (step (atPc 0x200 0xBF02 0xFE 0)) = some (0x1000, 0, 0) := by decide

/-! ### Registers and ALU (section 2.3) -/

-- A2
theorem test_loadImmediate_flag : regsOf (step (regs 0x6FFF 0 0 0xAA)) = some (0, 0, 0xFF, 0x202) := by decide
-- A4, A7
theorem test_addImmediate_wrap : regsOf (step (regs 0x7101 0xFF 0 0xAA)) = some (0x00, 0, 0xAA, 0x202) := by decide
theorem test_addImmediate_flag : regsOf (step (regs 0x7F01 0 0 0xFF)) = some (0, 0, 0x00, 0x202) := by decide
-- A8, A9, A11, A13, A14
theorem test_copy : regsOf (step (regs 0x8120 0x00 0x5A 0xAA)) = some (0x5A, 0x5A, 0xAA, 0x202) := by decide
theorem test_or : regsOf (step (regs 0x8121 0x50 0x05 0xAA)) = some (0x55, 0x05, 0xAA, 0x202) := by decide
theorem test_and : regsOf (step (regs 0x8122 0xF0 0x3C 0xAA)) = some (0x30, 0x3C, 0xAA, 0x202) := by decide
theorem test_xor : regsOf (step (regs 0x8123 0xFF 0x0F 0xAA)) = some (0xF0, 0x0F, 0xAA, 0x202) := by decide
theorem test_xor_self : regsOf (step (regs 0x8113 0x5A 0 0xAA)) = some (0x00, 0, 0xAA, 0x202) := by decide
-- A16, A22
theorem test_add_carry : regsOf (step (regs 0x8124 0xFF 0x01 0xAA)) = some (0x00, 0x01, 0x01, 0x202) := by decide
theorem test_add_flag_last : regsOf (step (regs 0x8F24 0 0x01 0x01)) = some (0, 0x01, 0x00, 0x202) := by decide
-- A25, A26
theorem test_sub_borrow : regsOf (step (regs 0x8125 0x03 0x05 0xAA)) = some (0xFE, 0x05, 0x00, 0x202) := by decide
theorem test_sub_equal : regsOf (step (regs 0x8125 0x07 0x07 0xAA)) = some (0x00, 0x07, 0x01, 0x202) := by decide
-- A31, A34
theorem test_subReverse : regsOf (step (regs 0x8127 0x03 0x05 0xAA)) = some (0x02, 0x05, 0x01, 0x202) := by decide
theorem test_subReverse_borrow : regsOf (step (regs 0x8127 0x01 0x00 0xAA)) = some (0xFF, 0x00, 0x00, 0x202) := by decide

/-- The same state with `SHIFT_SRC = VY`. -/
def shiftY (s : State) : State := { s with cfg := { s.cfg with shiftSrc := .vy } }

-- A35, A36 (P9), A43, A44
theorem test_shiftRight_vx : regsOf (step (regs 0x8126 0x05 0x08 0xAA)) = some (0x02, 0x08, 0x01, 0x202) := by decide
theorem test_shiftRight_vy : regsOf (step (shiftY (regs 0x8126 0x05 0x08 0xAA))) = some (0x04, 0x08, 0x00, 0x202) := by decide
theorem test_shiftLeft_vx : regsOf (step (regs 0x812E 0x05 0x81 0xAA)) = some (0x0A, 0x81, 0x00, 0x202) := by decide
theorem test_shiftLeft_vy : regsOf (step (shiftY (regs 0x812E 0x05 0x81 0xAA))) = some (0x02, 0x81, 0x01, 0x202) := by decide

-- A48: whatever the draw
theorem test_randomize_zero : regsOf (step (regs 0xC100 0x12 0 0xAA)) = some (0x00, 0, 0xAA, 0x202) := by
  have h : step (regs 0xC100 0x12 0 0xAA) = .next ((regs 0xC100 0x12 0 0xAA).countDraw.setV 1 (Config.randomByte 0 &&& 0x00#8)).advance := rfl
  rw [h, BitVec.and_zero]; decide

/-! ### Index and memory (section 2.4) -/

-- `A123`; I = FFFF plus 1 wraps (R73)
theorem test_setIndex : idxOf (step (atPc 0x200 0xA123 0 0xFFFF)) = some (0, 0x0123, 0x202) := by decide
theorem test_addToIndex_wrap : idxOf (step (atPc 0x200 0xF01E 0x01 0xFFFF)) = some (1, 0x0000, 0x202) := by decide
theorem test_addToIndex_no_limit : idxOf (step (atPc 0x200 0xF01E 0xFF 0x0FFF)) = some (0xFF, 0x10FE, 0x202) := by decide
-- R74: the low nibble of 0x1A is digit A, at 5 * 10
theorem test_spriteAddress : idxOf (step (atPc 0x200 0xF029 0x1A 0)) = some (0x1A, 0x0032, 0x202) := by decide

/-- The bytes at three addresses after a step, completed or failed. -/
def bytesAt (a b c : Nat) : Result → Option (Byte × Byte × Byte)
  | .next t => some (t.mem.read a, t.mem.read b, t.mem.read c)
  | .fault e => some (e.left.mem.read a, e.left.mem.read b, e.left.mem.read c)
  | .refused _ => none

-- M14, M17
theorem test_storeBcd : bytesAt 0x300 0x301 0x302 (step (atPc 0x200 0xF033 0xFF 0x300)) = some (2, 5, 5) := by decide
theorem test_storeBcd_partial :
    bytesAt 0xFFD 0xFFE 0xFFF (step (atPc 0x200 0xF033 0x7B 0xFFE)) = some (0, 1, 2) ∧
    errOf (step (atPc 0x200 0xF033 0x7B 0xFFE)) = some .invalidAddress := by decide

/-- `V0` to `V3` = 11, 22, 33, 44 (M24). -/
def fourRegs (w : Word) (i : Word) : State :=
  (((atPc 0x200 w 0x11 i).setV 1 0x22).setV 2 0x33).setV 3 0x44

-- M20 with these registers, M24
theorem test_storeRegisters : bytesAt 0x401 0x402 0x403 (step (fourRegs 0xF255 0x400)) = some (0x22, 0x33, 0x00) := by decide
theorem test_storeRegisters_partial :
    bytesAt 0xFFD 0xFFE 0xFFF (step (fourRegs 0xF355 0xFFE)) = some (0x00, 0x11, 0x22) ∧
    errOf (step (fourRegs 0xF355 0xFFE)) = some .invalidAddress := by decide
-- M25, M27
theorem test_loadRegisters :
    regsOf (step (put (put (put (fourRegs 0xF265 0x300) 0x300 2) 0x301 5) 0x302 4)) = some (5, 4, 0, 0x202) := by decide
theorem test_loadRegisters_partial :
    hostStep (put (fourRegs 0xF165 0xFFF) 0xFFF 0x5A) =
      ((put (fourRegs 0xF165 0xFFF) 0xFFF 0x5A).setV 0 0x5A, .err .invalidAddress) := by decide

/-! ### Display (section 2.5) -/

/-- `V0`, `V1`, and two sprite bytes at 0x300. -/
def sprite (w : Word) (v0 v1 b0 b1 : Byte) : State :=
  put (put ((atPc 0x200 w v0 0x300).setV 1 v1) 0x300 b0) 0x301 b1

/-- The lit pixels and `VF` after a step. -/
def drawnOf : Result → Option (List Nat × Byte)
  | .next t => some (litOf t, t.v[15])
  | _ => none

-- D9: both wraps
theorem test_draw_wraps : drawnOf (step (sprite 0xD012 0x3E 0x1F 0xC0 0x81)) = some ([5, 62, 2046, 2047], 0) := by decide +kernel

/-- Pixels (0,0) to (0,3) on (D10). -/
def fourOn : State :=
  (sprite 0xD011 0x02 0x00 0xF0 0x00).setFb ([0, 1, 2, 3].foldl (fun f c => flipPixel f (0, Fin.ofNat 64 c)) displayClear)

-- D10: a collision
theorem test_draw_collision : drawnOf (step fourOn) = some ([0, 1, 4, 5], 1) := by decide +kernel
-- D1
theorem test_clearScreen : drawnOf (step (placeWordAtPc (fourOn.setV vF 0xAA) 0x00E0)) = some ([], 0xAA) := by decide +kernel

/-! ### Keys and timers (section 2.6) -/

-- K1, K3
theorem test_skipIfKeyPressed : regsOf (step ((regs 0xE19E 7 0 0).setKeyFlag 7 true)) = some (7, 0, 0, 0x204) := by decide
theorem test_skipIfKeyPressed_invalid : errOf (step (regs 0xE19E 0x10 0 0)) = some .invalidKey := by decide
-- K6, K7
theorem test_skipIfKeyNotPressed : regsOf (step ((regs 0xE1A1 7 0 0).setKeyFlag 7 true)) = some (7, 0, 0, 0x202) := by decide
theorem test_skipIfKeyNotPressed_invalid : errOf (step (regs 0xE1A1 0x17 0 0)) = some .invalidKey := by decide
-- K13
theorem test_readDelayTimer : regsOf (step ((regs 0xFF07 0 0 0xAA).setDt 9)) = some (0, 0, 9, 0x202) := by decide

/-- Both timers after a step. -/
def timersOf : Result → Option (Byte × Byte)
  | .next t => some (t.dt, t.st)
  | _ => none

-- K10, K12 with register 1
theorem test_setDelayTimer : timersOf (step (regs 0xF115 0x07 0 0)) = some (7, 0) := by decide
theorem test_setSoundTimer : timersOf (step ((regs 0xF118 0x1E 0 0).setDt 3)) = some (3, 0x1E) := by decide

/-- `F10A` at 0x200 right after reset. -/
def waiting : State := regs 0xF10A 0 0 0

-- W1, W2, W3, W6: results of the events
theorem test_wait_then_press :
    eventResults [.step, .setKey 7 true, .setKey 7 false, .step] waiting =
      [.stepped .waiting, .done, .done, .stepped .ok] := by decide
theorem test_wait_held_key :
    eventResults [.setKey 7 true, .step, .step] waiting = [.done, .stepped .waiting, .stepped .waiting] := by decide

/-! ### The step, the host's operations (sections 2.7, 2.8) -/

/-- What `new` answers, as the first step sees it (H1, H2, E1). -/
def firstStep (bytes : List Byte) : Option (State × StepResult) :=
  match newMachine Config.default bytes with
  | .ok s => some (hostStep s)
  | .error _ => none

-- H1, H2, S8
theorem test_new_empty : (firstStep []).map (·.2) = some (.err .undefinedOpcode) := by decide
theorem test_new_odd_length : (firstStep [0x60]).map (fun r => (r.1.v[0], r.1.pc, r.2)) = some (0x00, 0x202, .ok) := by decide
theorem test_new_first_word : (firstStep [0x60, 0x05]).map (fun r => (r.1.v[0], r.1.pc, r.2)) = some (0x05, 0x202, .ok) := by decide
-- S9: the whole state is as before
theorem test_undefined_opcode : step (atPc 0x200 0x5FF1 0 0) = .fault (.undefinedOpcode 0x5FF1 (atPc 0x200 0x5FF1 0 0)) := rfl
-- E2, E3: the fetch bound
theorem test_fetch_bound :
    errOf (step ((regs 0x6005 0 0 0).setPc 0x0FFF)) = some .invalidAddress ∧
    errOf (step ((regs 0x6005 0 0 0).setPc 0x10FE)) = some .invalidAddress := by decide
-- H5, H6
theorem test_tickTimers : ((tickTimers ((State.reset.setDt 7).setSt 0)).dt, (tickTimers ((State.reset.setDt 7).setSt 0)).st) = (6#8, 0#8) := by decide
-- H9, H11
theorem test_setKey_invalid : setKey 0x10 true State.reset = .error .invalidKey := by decide
theorem test_isPressed : isPressed 7 (State.reset.setKeyFlag 7 true) = .ok true ∧ isPressed 0x10 State.reset = .error .invalidKey := by decide
-- H12, H13
theorem test_snapshot_reset : (snapshot State.reset).length = 2048 ∧ litOf State.reset = [] := by decide +kernel
theorem test_timer_reads : readDelayTimer (State.reset.setDt 5) = 5 ∧ readSoundTimer (State.reset.setSt 0x1E) = 0x1E := by decide
/-- The error numbers of R96. -/
theorem test_errorCode : [ErrorKind.romTooLarge, .invalidAddress, .invalidKey, .stackOverflow, .stackUnderflow, .undefinedOpcode].map errorCode = [0, 1, 2, 3, 4, 5] := by decide
/-- A run is clean exactly if no step fails (R101); the three stopping points (R115). -/
theorem test_safety :
    cleanRun [.step, .step] (atPc 0x200 0x1200 0 0) = true ∧ cleanRun [.step] State.reset = false ∧
    atSelfJump (atPc 0x200 0x1200 0 0) = true ∧ willFail State.reset = true ∧ waitsForHost waiting = true := by decide
/-- The host places a word where the next step fetches it. -/
theorem test_withFetchWord : regsOf (step (State.reset.withFetchWord 16 0x6107)) = some (7, 0, 0, 0x202) := by decide

/-! ### Witnesses: states and operands that meet the hypotheses of the statements -/

theorem witness_EncodeInvertsDecode : decodeWord 0xD7A3 = .ok (.draw 0x7 0xA 0x3) := by decide

/-- `pc` 0x0FFE, 0x0FFF and 0x1000: the three clauses of the fetch statement at their boundaries. -/
theorem witness_FetchBigEndianBounded :
    (State.reset.setPc 0x0FFE).pc.toNat + 1 < 4096 ∧ (State.reset.setPc 0x0FFF).pc.toNat = 4095 ∧
    4096 ≤ (State.reset.setPc 0x1000).pc.toNat := by decide

/-- `6007` at the last address a word can be fetched at. -/
theorem witness_StepRunsDecodedInstruction :
    memRead (atPc 0x0FFE 0x6007 0 0) (atPc 0x0FFE 0x6007 0 0).pc.toNat = some 0x60 ∧
    memRead (atPc 0x0FFE 0x6007 0 0) ((atPc 0x0FFE 0x6007 0 0).pc.toNat + 1) = some 0x07 ∧
    decodeBytes [0x60, 0x07] = .ok (.loadImmediate 0 7, []) := by decide

theorem witness_UndefinedOpcodeChangesNothing :
    fetch (atPc 0x200 0x5FF1 0 0) = .ok 0x5FF1 ∧ ∀ r ∈ opTable, r.selects 0x5FF1 = false := by decide

/-- No error, and each error a step can raise, at the boundary of its condition. -/
theorem witness_StepErrorsExactly :
    expectedStepError (atPc 0x0FFE 0x6007 0 0) = none ∧
    expectedStepError (atPc 0x200 0xF033 0 0x0FFD) = none ∧
    expectedStepError (atPc 0x200 0xF033 0 0x0FFE) = some .invalidAddress ∧
    expectedStepError (State.reset.setPc 0x0FFF) = some .invalidAddress ∧
    expectedStepError (regs 0xE19E 0x10 0 0) = some .invalidKey ∧
    expectedStepError (stacked (atPc 0x200 0x2208 0 0) 16 0) = some .stackOverflow ∧
    expectedStepError (atPc 0x200 0x00EE 0 0) = some .stackUnderflow ∧
    expectedStepError State.reset = some .undefinedOpcode := by decide

theorem witness_MemoryAccessLaws : State.reset.mem.wf = true ∧ 4096 ≤ 0x1000 ∧ 0x0FFF < 4096 := by decide

/-- Sixteen values on an empty stack; a full and an empty stack (S2). -/
theorem witness_ReturnStackIsLifo :
    State.reset.sp.val + (List.replicate 16 0x0204#16).length ≤ 16 ∧ (stacked State.reset 16 0).sp.val = 16 ∧
    State.reset.sp.val = 0 := by decide

theorem witness_CallPushesReturnAddress :
    (stacked State.reset 15 0).sp.val < 16 ∧ (stacked State.reset 16 0).sp.val = 16 := by decide

theorem witness_ReturnPopsPc : 0 < (stacked State.reset 1 0).sp.val ∧ State.reset.sp.val = 0 := by decide

theorem witness_ShiftsFollowParameter :
    ((regs 0 5 8 0).cfg.shiftSrc = .vx ∧ 0x05#8 = (regs 0 5 8 0).v[(1 : Fin 16)]) ∧
    ((shiftY (regs 0 5 8 0)).cfg.shiftSrc = .vy ∧ 0x08#8 = (shiftY (regs 0 5 8 0)).v[(2 : Fin 16)]) := by decide

/-- The last addresses at which the block instructions complete. -/
theorem witness_block_completes :
    (atPc 0x200 0 0 0x0FFD).mem.wf = true ∧ (atPc 0x200 0 0 0x0FFD).idx.toNat + 2 < 4096 ∧
    (atPc 0x200 0 0 0x0FF0).mem.wf = true ∧ (atPc 0x200 0 0 0x0FF0).idx.toNat + (15 : Reg).val < 4096 := by decide

/-- A store with its first byte in memory and its last outside (clauses of both stores), one wholly outside. -/
theorem witness_StoresFailPartWay :
    (atPc 0x200 0 0 0x0FFE).mem.wf = true ∧ 4096 ≤ (atPc 0x200 0 0 0x0FFE).idx.toNat + (2 : Reg).val ∧
    effAddr (atPc 0x200 0 0 0x0FFE) 0 < 4096 ∧ effAddr (atPc 0x200 0 0 0x0FFE) 1 < 4096 ∧
    4096 ≤ (atPc 0x200 0 0 0x1000).idx.toNat + (0 : Reg).val := by decide

theorem witness_LoadFailsPartWay :
    4096 ≤ (atPc 0x200 0 0 0x0FFF).idx.toNat + (1 : Reg).val ∧
    effAddr (atPc 0x200 0 0 0x0FFF) (0 : Reg).val < 4096 ∧ 4096 ≤ effAddr (atPc 0x200 0 0 0x0FFF) (1 : Reg).val := by decide

/-- `n = 0` with any `I`; fifteen rows that end at 0x0FFF; a covered pixel that is on, one that is off; a pixel that
is not covered. -/
theorem witness_DrawInvertsSpritePixels :
    ((0 : Fin 16).val = 0 ∨ (atPc 0x200 0 0 0x1234).idx.toNat + (0 : Fin 16).val ≤ 4096) ∧
    ((15 : Fin 16).val = 0 ∨ (atPc 0x200 0 0 0x0FF1).idx.toNat + (15 : Fin 16).val ≤ 4096) ∧
    (spriteCovers fourOn 0 1 1 (0, 2) ∧ pixelAt fourOn.fb (0, 2) = true) ∧
    (spriteCovers fourOn 0 1 1 (0, 4) ∧ pixelAt fourOn.fb (0, 4) = false) ∧
    ¬spriteCovers fourOn 0 1 1 (1, 2) := by
  refine ⟨by decide, by decide, ⟨⟨0, 0, by decide, by decide, by decide, by decide, by decide⟩, by decide⟩,
    ⟨⟨0, 2, by decide, by decide, by decide, by decide, by decide⟩, by decide⟩, ?_⟩
  rintro ⟨r, c, hr, -, -, h, -⟩
  obtain rfl : r = 0 := by omega
  exact absurd h (by decide)

/-- A sprite of one 1 bit on a clear display covers no pixel that is on. -/
theorem witness_draw_no_collision :
    ∀ p, spriteCovers (sprite 0xD011 0 0 0x80 0) 0 1 1 p → pixelAt (sprite 0xD011 0 0 0x80 0).fb p = false :=
  fun p _ => by show pixelAt displayClear p = false; simp [pixelAt, displayClear]

theorem witness_DrawOutOfRangeChangesNothing :
    (1 ≤ (1 : Fin 16).val ∧ 4096 ≤ (atPc 0x200 0 0 0x1000).idx.toNat + (1 : Fin 16).val - 1) ∧
    (1 ≤ (15 : Fin 16).val ∧ 4096 ≤ (atPc 0x200 0 0 0x0FF2).idx.toNat + (15 : Fin 16).val - 1) := by decide

/-- Fifteen rows; a draw whose coordinate registers stay as they were. -/
theorem witness_DrawTwiceRestores :
    (List.replicate 15 0xFF#8).length ≤ 15 ∧
    ∃ t, exec (.draw 0 1 1) fourOn = .next t ∧ t.v[(0 : Fin 16)] = fourOn.v[(0 : Fin 16)] ∧
      t.v[(1 : Fin 16)] = fourOn.v[(1 : Fin 16)] := ⟨by decide, _, rfl, by decide, by decide⟩

theorem witness_KeySkipsFollowLevel :
    (regs 0 0x0F 0 0).v[(1 : Fin 16)].toNat = (15 : KeyNum).val ∧ 0x0F < (regs 0 0x10 0 0).v[(1 : Fin 16)].toNat := by decide

/-- The machine waiting at `F10A`, and the same with key 7 latched. -/
def pending : State := { waiting with kwActive := true }
def latched : State := { waiting with kwActive := true, kwLatch := some 7 }

theorem witness_WaitForKeyCompletes : latched.kwActive = true ∧ latched.kwLatch = some 7 := by decide

theorem witness_WaitForKeyWaits :
    (waiting.kwActive = false ∧ fetchInstr waiting = .ok (.waitForKey 1)) ∧
    (pending.kwLatch = none ∧ fetchInstr pending = .ok (.waitForKey 1)) :=
  ⟨⟨by decide, rfl⟩, by decide, rfl⟩

theorem witness_WaitLastsUntilKeyPress :
    pending.kwActive = true ∧ pending.kwLatch = none ∧ waitAtPc pending = true ∧
    (∀ e ∈ [Event.step, .tickTimers, .setKey 3 false, .isPressed 7, .snapshot, .readDelayTimer, .readSoundTimer],
      noKeyPress e) := by
  refine ⟨by decide, by decide, by decide, ?_⟩
  intro e he
  fin_cases he <;> trivial

theorem witness_FirstPressEndsWait :
    pending.kwActive = true ∧ pending.kwLatch = none ∧ fetchInstr pending = .ok (.waitForKey 1) ∧
    pending.key[(7 : KeyNum)] = false ∧ (∀ e ∈ [Event.setKey 3 true, .setKey 7 false, .tickTimers], e ≠ .step) :=
  ⟨by decide, by decide, rfl, by decide, by decide⟩

/-- A key number at 0x10; a press that is latched; the four ways a call is not one. -/
theorem witness_SetKeyFillsLatch :
    0xF < 0x10 ∧
    (pending.key[(15 : KeyNum)] = false ∧ pending.kwActive = true ∧ pending.kwLatch = none) ∧
    ¬(false = true) ∧ (pending.setKeyFlag 15 true).key[(15 : KeyNum)] ≠ false ∧ waiting.kwActive ≠ true ∧
    latched.kwLatch ≠ none := by decide

theorem witness_IsPressedIsPureQuery : 0xF < 0x10 := by decide

/-- Images of 3585 and of 3584 bytes; parameters with a font; an address outside both (S5). -/
theorem witness_NewBuildsResetState :
    3584 < (List.replicate 3585 0xFF#8).length ∧ (List.replicate 3584 0xFF#8).length ≤ 3584 ∧
    ({ Config.default with fontBase := 0x1B0, fontImage := List.replicate 80 0xF0#8 }).wf = true ∧
    (List.replicate 3584 0xFF#8)[3583]? = some 0xFF#8 ∧ (List.replicate 80 0xF0#8)[79]? = some 0xF0#8 ∧
    (0x1AF < 4096 ∧ 0x1AF < 0x200 ∧ 0x1AF < 0x1B0) := by
  exact ⟨Nat.lt_of_lt_of_eq (by decide) List.length_replicate.symm, Nat.le_of_eq List.length_replicate, by decide,
    List.getElem?_replicate.trans rfl, List.getElem?_replicate.trans rfl, by decide⟩

theorem witness_InvariantAtReset : Config.default.wf = true ∧ ∃ s, newMachine Config.default [0x60, 0x05] = .ok s :=
  ⟨by decide, _, rfl⟩

/-- The invariant holds with a full stack of the largest live address, in a pending wait, and the step completes. -/
theorem witness_StepKeepsInvariant :
    (State.inv (stacked (atPc 0x0FFE 0x1FFF 0 0) 16 0x1000) ∧
      ∃ t, step (stacked (atPc 0x0FFE 0x1FFF 0 0) 16 0x1000) = .next t) ∧
    (State.inv latched ∧ ∃ t, step latched = .next t) :=
  ⟨⟨by decide, _, rfl⟩, by decide, _, rfl⟩

theorem witness_ExecutionsKeepInvariant : State.inv pending ∧ State.inv State.reset := by decide

/-- An instruction outside every writer's clause completes; so does a store, with an address it does not store to. -/
theorem witness_StateElementsHaveTheirWriters :
    ((regs 0 1 2 0).mem.wf = true ∧ ∃ t, exec (.add 1 2) (regs 0 1 2 0) = .next t) ∧
    ((atPc 0x200 0 0 0x0FF0).mem.wf = true ∧ (∃ t, exec (.storeRegisters 0xF) (atPc 0x200 0 0 0x0FF0) = .next t) ∧
      ¬storesTo (.storeRegisters 0xF) (atPc 0x200 0 0 0x0FF0) 0x0FEF) :=
  ⟨⟨by decide, _, rfl⟩, by decide, ⟨_, rfl⟩, by simp only [storesTo]; decide⟩

theorem witness_RegistersHaveTheirWriters :
    (∃ t, exec (.add 1 2) (regs 0 1 2 0) = .next t) ∧ ¬writesReg (.add 1 2) 2 ∧
    (∃ t, exec (.loadRegisters 2) (fourRegs 0 0x300) = .next t) ∧ ¬writesReg (.loadRegisters 2) 3 :=
  ⟨⟨_, rfl⟩, by simp only [writesReg]; decide, ⟨_, rfl⟩, by simp only [writesReg]; decide⟩

/-- A failing store and the last byte it does not store to, a failing load and a register of each clause, a failing
step of another instruction. -/
theorem witness_FailedStepLeftovers :
    ((∃ e, step (fourRegs 0xF355 0xFFE) = .fault e) ∧ storeAtPc (fourRegs 0xF355 0xFFE) ∧
      (fourRegs 0xF355 0xFFE).mem.wf = true ∧ fetchInstr (fourRegs 0xF355 0xFFE) = .ok (.storeRegisters 3) ∧
      ¬storesTo (.storeRegisters 3) (fourRegs 0xF355 0xFFE) 0xFFD) ∧
    ((∃ e, step (fourRegs 0xF165 0xFFF) = .fault e) ∧ fetchInstr (fourRegs 0xF165 0xFFF) = .ok (.loadRegisters 1) ∧
      4096 ≤ effAddr (fourRegs 0xF165 0xFFF) (1 : Reg).val ∧ (1 : Reg).val < (2 : Reg).val) ∧
    ((∃ e, step (atPc 0x200 0x00EE 0 0) = .fault e) ∧ fetchInstr (atPc 0x200 0x00EE 0 0) = .ok .ret) :=
  ⟨⟨⟨_, rfl⟩, Or.inr ⟨3, rfl⟩, by decide, rfl, by simp only [storesTo]; decide⟩, ⟨⟨_, rfl⟩, rfl, by decide, by decide⟩,
    ⟨_, rfl⟩, rfl⟩

/-- A failing store that leaves the bytes at `pc` (P7); a failing instruction that is no store. -/
theorem witness_FailedStepFailsAgain :
    (∃ e, step (fourRegs 0xF355 0xFFE) = .fault e ∧ fetch e.left = fetch (fourRegs 0xF355 0xFFE)) ∧
    ((∃ e, step (atPc 0x200 0x00EE 0 0) = .fault e) ∧ ¬storeAtPc (atPc 0x200 0x00EE 0 0)) := by
  refine ⟨⟨_, rfl, rfl⟩, ⟨_, rfl⟩, ?_⟩
  have h : fetchInstr (atPc 0x200 0x00EE 0 0) = .ok .ret := rfl
  rintro (⟨x, hx⟩ | ⟨x, hx⟩) <;> rw [h] at hx <;> cases hx

theorem witness_SelfJumpStaysForEver : atSelfJump (atPc 0x200 0x1200 0 0) = true := by decide

theorem witness_SoundTimerIsNotRead : eqButSoundTimer waiting (waiting.setSt 0x1E) := rfl

/-- One live entry, fifteen dead ones that differ. -/
theorem witness_DeadStackEntriesAreNotRead :
    eqButDeadStack (stacked waiting 1 0x204) { stacked waiting 1 0x204 with stk := (Vector.replicate 16 0).set 0 0x204 } :=
  ⟨rfl, by decide⟩

end Sys2Proof.Tests
end

