-- ==== Sys2Proof/Proofs/Flow.lean ====
section
/-! PROOFS. Control transfer (spec/40_flow.md rules R49 to R55). -/

namespace Sys2Proof.Machine

/-! ### What the shared parts of control transfer do -/

/-- A jump target is the 12-bit operand as a number (R50). -/
@[simp] theorem addrOperand_toNat (nnn : Addr12) : (addrOperand nnn).toNat = nnn.toNat :=
  BitVec.toNat_setWidth_of_le (by decide)

/-- A skip whose Boolean decides `P` moves `pc` by 4 when `P` holds, else by 2 (R48). -/
theorem State.skipIf_of_iff (s : State) {c : Bool} {P : Prop} [Decidable P] (h : c = true ↔ P) :
    s.skipIf c = { s with pc := if P then s.pc + 4 else s.pc + 2 } :=
  congrArg s.setPc (if_congr h rfl rfl)

/-- A skip on equality compares the two values as numbers (R52, R54). -/
theorem State.skipIf_beq {n : Nat} (s : State) (a b : BitVec n) :
    s.skipIf (a == b) = { s with pc := if a.toNat = b.toNat then s.pc + 4 else s.pc + 2 } :=
  s.skipIf_of_iff (beq_iff_eq.trans BitVec.toNat_inj.symm)

/-- A skip on inequality has the two distances the other way round (R53, R55). -/
theorem State.skipIf_bne {n : Nat} (s : State) (a b : BitVec n) :
    s.skipIf (a != b) = { s with pc := if a.toNat = b.toNat then s.pc + 2 else s.pc + 4 } := by
  rw [s.skipIf_of_iff (bne_iff_ne.trans (not_congr BitVec.toNat_inj.symm)), ite_not]

/-! ### `call` and `return` by what the stack answers -/

theorem exec_call_of_push {s t : State} {nnn : Addr12} (h : push s (s.pc + 2#16) = some t) :
    exec (.call nnn) s = .next (t.setPc (addrOperand nnn)) := by
  simp [exec, execCall, h]

theorem exec_call_of_push_none {s : State} {nnn : Addr12} (h : push s (s.pc + 2#16) = none) :
    exec (.call nnn) s = .fault (.stackOverflow s) := by
  simp [exec, execCall, raiseError, h]

theorem exec_ret_of_pop {s t : State} {w : Word} (h : pop s = some (w, t)) : exec .ret s = .next (t.setPc w) := by
  simp [exec, execReturn, h]

theorem exec_ret_of_pop_none {s : State} (h : pop s = none) : exec .ret s = .fault (.stackUnderflow s) := by
  simp [exec, execReturn, raiseError, h]

/-! ### The obligations -/

/-- Settles O13: the next state is `setPc` of the zero-extended operand. -/
theorem jumpSetsPc : Obligations.JumpSetsPc := fun nnn s =>
  ⟨s.setPc (addrOperand nnn), rfl, addrOperand_toNat nnn, rfl⟩

/-- Settles O14, by the two cases of `Push` (R16). -/
theorem callPushesReturnAddress : Obligations.CallPushesReturnAddress := by
  intro nnn s
  obtain ⟨hsp, hpush⟩ | ⟨t, hsp, hpush, htsp, hstk, hframe⟩ := push_spec s (s.pc + 2#16)
  · exact ⟨fun h => by omega, fun _ => exec_call_of_push_none hpush⟩
  · refine ⟨fun _ => ⟨_, exec_call_of_push hpush, addrOperand_toNat nnn, htsp, fun k hk => ?_, fun k hk => ?_, ?_⟩,
      fun h => by omega⟩
    · exact (hstk k).trans (if_pos hk)
    · exact (hstk k).trans (if_neg hk)
    · exact congrArg (State.setPc · (addrOperand nnn)) hframe

/-- Settles O15, by the two cases of `Pop` (R16). -/
theorem returnPopsPc : Obligations.ReturnPopsPc := by
  intro s
  obtain ⟨hsp, hpop⟩ | ⟨w, t, hpop, htsp, htop, hframe⟩ := pop_spec s
  · exact ⟨fun h => by omega, fun _ => exec_ret_of_pop_none hpop⟩
  · exact ⟨fun _ => ⟨_, exec_ret_of_pop hpop, htsp, htop, congrArg (State.setPc · w) hframe⟩, fun h => by omega⟩

/-- Settles O16: each skip is `skipIf` of an equality test or of its negation. -/
theorem skipsAdvanceByTwoOrFour : Obligations.SkipsAdvanceByTwoOrFour := fun x y kk s =>
  ⟨congrArg _ (s.skipIf_beq (s.getV x) kk), congrArg _ (s.skipIf_bne (s.getV x) kk),
    congrArg _ (s.skipIf_beq (s.getV x) (s.getV y)), congrArg _ (s.skipIf_bne (s.getV x) (s.getV y))⟩

end Sys2Proof.Machine
end

