-- ==== Sys2Proof/Proofs/Alu.lean ====
section
/-! PROOFS. Registers and ALU (spec/41_alu.md rules R57 to R60). -/

namespace Sys2Proof.Machine

open Sys2Proof.Claims

/-! ### What the shared parts of the ALU instructions do -/

/-- The byte sum is the exact sum modulo 256 (R59). -/
@[simp] theorem addByte_toNat (a b : Byte) : (addByte a b).toNat = (a.toNat + b.toNat) % 256 :=
  BitVec.toNat_ofNat _ 8

/-- The end of every instruction that writes one register and no flag (R57): the register holds the byte, no other
register changes, `pc` is 2 further, nothing else changes. -/
theorem State.advance_setV_spec (s : State) (x : Reg) (b : Byte) :
    (s.setV x b).advance.v[x] = b ∧ regsEqBut s (s.setV x b).advance x ∧
      (s.setV x b).advance.pc = s.pc + 2 ∧ onlyRegsPc s (s.setV x b).advance :=
  ⟨(s.getV_setV x x b).trans (if_pos rfl), fun r hr => (s.getV_setV x r b).trans (if_neg hr), rfl, rfl⟩

/-! ### The obligations -/

/-- Settles O18: the next state is one register write and the advance of `pc`. -/
theorem loadImmediateWritesByte : Obligations.LoadImmediateWritesByte := fun x kk s =>
  ⟨(s.setV x kk).advance, rfl, s.advance_setV_spec x kk⟩

/-- Settles O19: the byte written is the sum modulo 256, and no second register is written. -/
theorem addImmediateWritesNoFlag : Obligations.AddImmediateWritesNoFlag := by
  intro x kk s
  obtain ⟨hx, hframe⟩ := s.advance_setV_spec x (addByte (s.getV x) kk)
  exact ⟨_, rfl, (congrArg BitVec.toNat hx).trans (addByte_toNat (s.getV x) kk), hframe⟩

end Sys2Proof.Machine
end

section
/-! PROOFS. Index register (spec/42_index_memory.md rule R72). -/

namespace Sys2Proof.Machine

/-- The end of every instruction whose only result is the index register (R72 to R74). -/
theorem State.advance_setIdx_spec (s : State) (w : Word) :
    (s.setIdx w).advance.idx = w ∧ (s.setIdx w).advance.pc = s.pc + 2 ∧
      (s.setIdx w).advance = { s with idx := w, pc := s.pc + 2 } :=
  ⟨rfl, rfl, rfl⟩

/-- Settles O25: the word written is the zero-extended operand, and no other field is written. -/
theorem setIndexLoadsAddress : Obligations.SetIndexLoadsAddress := by
  intro nnn s
  obtain ⟨hidx, hpc, hframe⟩ := s.advance_setIdx_spec (addrOperand nnn)
  exact ⟨_, rfl, (congrArg BitVec.toNat hidx).trans (addrOperand_toNat nnn), hpc, hframe⟩

end Sys2Proof.Machine
end

section
/-! PROOFS. Clearing the display (spec/43_display.md rule R79). -/

namespace Sys2Proof.Machine

/-- Settles O33: the next state is the cleared framebuffer and the advance of `pc`; `VF` is among the fields that no
operation of `clear-screen` writes. -/
theorem clearScreenTurnsAllOff : Obligations.ClearScreenTurnsAllOff := fun s =>
  ⟨(s.setFb displayClear).advance, rfl, pixelAt_displayClear, rfl, rfl⟩

end Sys2Proof.Machine
end

section
/-! PROOFS. The key skips (spec/44_input_timers.md rules R82 to R84). -/

namespace Sys2Proof.Machine

/-! ### The key skips by what the key query answers -/

theorem exec_skipIfKeyPressed_of_keyPressed {s : State} {x : Reg} {p : Bool}
    (h : keyPressed s (s.getV x).toNat = some p) : exec (.skipIfKeyPressed x) s = .next (s.skipIf p) := by
  simp [exec, execSkipIfKeyPressed, h]

theorem exec_skipIfKeyPressed_of_keyPressed_none {s : State} {x : Reg}
    (h : keyPressed s (s.getV x).toNat = none) :
    exec (.skipIfKeyPressed x) s = .fault (.invalidKey (s.getV x).toNat s) := by
  simp [exec, execSkipIfKeyPressed, raiseError, h]

theorem exec_skipIfKeyNotPressed_of_keyPressed {s : State} {x : Reg} {p : Bool}
    (h : keyPressed s (s.getV x).toNat = some p) : exec (.skipIfKeyNotPressed x) s = .next (s.skipIf (!p)) := by
  simp [exec, execSkipIfKeyNotPressed, h]

theorem exec_skipIfKeyNotPressed_of_keyPressed_none {s : State} {x : Reg}
    (h : keyPressed s (s.getV x).toNat = none) :
    exec (.skipIfKeyNotPressed x) s = .fault (.invalidKey (s.getV x).toNat s) := by
  simp [exec, execSkipIfKeyNotPressed, raiseError, h]

/-- A skip on a negated Boolean has the two distances of `skipIf` the other way round (R84). -/
theorem State.skipIf_not (s : State) (p : Bool) :
    s.skipIf (!p) = { s with pc := if p = true then s.pc + 2 else s.pc + 4 } := by
  rw [s.skipIf_of_iff (P := ¬p = true) (by simp), ite_not]

/-! ### The obligation -/

/-- Settles O37, by the two cases of the key query (R82): the flag of a key number, `InvalidKey` above 0x0F. -/
theorem keySkipsFollowLevel : Obligations.KeySkipsFollowLevel := by
  intro x s
  refine ⟨fun k hk => ?_, fun h => ?_⟩
  · have hkey : keyPressed s (s.getV x).toNat = some s.key[k] :=
      (congrArg (keyPressed s) hk).trans (keyPressed_of_lt k.isLt)
    exact ⟨exec_skipIfKeyPressed_of_keyPressed hkey,
      (exec_skipIfKeyNotPressed_of_keyPressed hkey).trans (congrArg _ (s.skipIf_not s.key[k]))⟩
  · have hkey : keyPressed s (s.getV x).toNat = none := keyPressed_of_ge h
    exact ⟨exec_skipIfKeyPressed_of_keyPressed_none hkey, exec_skipIfKeyNotPressed_of_keyPressed_none hkey⟩

end Sys2Proof.Machine
end

section
/-! PROOFS. The host operations `tickTimers`, `isPressed` and `snapshot` (spec/45_host_operations.md rules R91, R93,
R94). -/

namespace Sys2Proof.Machine

/-! ### Timers (R91) -/

/-- The floor at 0 is that of natural subtraction. -/
@[simp] theorem tickTimer_toNat (b : Byte) : (tickTimer b).toNat = b.toNat - 1 := by
  unfold tickTimer
  split
  · rename_i hpos
    exact BitVec.toNat_sub_of_le hpos
  · omega

/-- Everything one tick does. -/
theorem tickTimers_spec (s : State) :
    (tickTimers s).dt.toNat = s.dt.toNat - 1 ∧ (tickTimers s).st.toNat = s.st.toNat - 1 ∧
      tickTimers s = { s with dt := (tickTimers s).dt, st := (tickTimers s).st } :=
  ⟨tickTimer_toNat s.dt, tickTimer_toNat s.st, rfl⟩

/-- Everything `n` ticks do. -/
theorem runEvents_replicate_tickTimers_spec (n : Nat) (s : State) :
    ∃ t, runEvents (List.replicate n .tickTimers) s = t ∧
      t.dt.toNat = s.dt.toNat - n ∧ t.st.toNat = s.st.toNat - n ∧ t = { s with dt := t.dt, st := t.st } := by
  induction n generalizing s with
  | zero => exact ⟨s, rfl, rfl, rfl, rfl⟩
  | succ n ih =>
    obtain ⟨hdt, hst, -⟩ := tickTimers_spec s
    obtain ⟨t, hrun, htdt, htst, hframe⟩ := ih (tickTimers s)
    exact ⟨t, hrun, by omega, by omega, hframe⟩

/-! ### The key query (R93) -/

theorem isPressed_of_keyPressed {s : State} {k : Nat} {p : Bool} (h : keyPressed s k = some p) :
    isPressed k s = .ok p := by
  simp [isPressed, h]

theorem isPressed_of_keyPressed_none {s : State} {k : Nat} (h : keyPressed s k = none) :
    isPressed k s = .error .invalidKey := by
  simp [isPressed, h]

/-- The event leaves the state as it is, whether the query answers or fails. -/
@[simp] theorem applyEvent_isPressed_state (k : Nat) (s : State) : (applyEvent (.isPressed k) s).1 = s := by
  simp only [applyEvent]
  split <;> rfl

/-! ### The snapshot (R94) -/

/-- The snapshot is the framebuffer as one vector of 32 * 64 pixels, listed. -/
theorem snapshot_eq_flatten (s : State) : snapshot s = s.fb.flatten.toList :=
  calc snapshot s = (s.fb.toList.map Vector.toList).flatten := List.flatMap_def
    _ = ((s.fb.toArray.map Vector.toArray).toList.map Array.toList).flatten := by
      rw [Array.toList_map, List.map_map]; rfl
    _ = s.fb.flatten.toList := Array.toList_flatten.symm

theorem length_snapshot (s : State) : (snapshot s).length = 2048 := by
  rw [snapshot_eq_flatten, Vector.length_toList]

/-- The element at `row * 64 + col` is the pixel: dividing the index by the row length gives back `row` and `col`. -/
theorem getElem?_snapshot (s : State) (p : Pixel) :
    (snapshot s)[p.1.val * 64 + p.2.val]? = some (pixelAt s.fb p) := by
  obtain ⟨⟨r, hr⟩, ⟨c, hc⟩⟩ := p
  have hrow : (r * 64 + c) / 64 = r := by omega
  have hcol : (r * 64 + c) % 64 = c := by omega
  have hlt : r * 64 + c < 32 * 64 := by omega
  rw [snapshot_eq_flatten, Vector.getElem?_toList, Vector.getElem?_eq_getElem hlt, Vector.getElem_flatten]
  simp only [hrow, hcol]
  rfl

/-! ### The obligations -/

/-- Settles O46: the snapshot lists the flattened framebuffer, whose index is split by division by 64. -/
theorem snapshotIsRowMajor : Obligations.SnapshotIsRowMajor := fun s =>
  ⟨length_snapshot s, getElem?_snapshot s, rfl⟩

/-- Settles O43: one tick by its specification, `n` ticks by induction on `n`. -/
theorem tickTimersFloorsAtZero : Obligations.TickTimersFloorsAtZero := by
  intro s
  obtain ⟨hdt, hst, hframe⟩ := tickTimers_spec s
  exact ⟨hdt, hst, hframe, fun n => runEvents_replicate_tickTimers_spec n s⟩

/-- Settles O45, by the two cases of the key query (R21): the flag of a key number, `InvalidKey` above 0xF. -/
theorem isPressedIsPureQuery : Obligations.IsPressedIsPureQuery :=
  ⟨fun k _ => isPressed_of_keyPressed (keyPressed_of_lt k.isLt),
    fun _ _ h => isPressed_of_keyPressed_none (keyPressed_of_ge h), applyEvent_isPressed_state⟩

end Sys2Proof.Machine
end

section
/-! PROOFS. The decoder, the encoder and the opcode map (spec/30_encoding.md rules R43 to R45). -/

namespace Sys2Proof

/-! ### The words each class rejects (R44) -/

/-- The whole word is the opcode in class 0. -/
theorem decodeClass0_eq_error_iff (w : Word) :
    decodeClass0 w = .error (.undefinedOpcode w) ↔ w.toNat ≠ 0x00E0 ∧ w.toNat ≠ 0x00EE := by
  have hword : ∀ p : Word, w = p ↔ w.toNat = p.toNat := fun p => BitVec.toNat_inj.symm
  unfold decodeClass0
  split_ifs <;> simp_all

/-- The low nibble is the sub-opcode in class 8. -/
theorem decodeClass8_eq_error_iff (w : Word) :
    decodeClass8 w = .error (.undefinedOpcode w) ↔ w.toNat % 16 ∈ [0x8, 0x9, 0xA, 0xB, 0xC, 0xD, 0xF] := by
  have hnibble : ∀ k : Fin 16, fieldN w = k ↔ w.toNat % 16 = k.val := fun k => by rw [Fin.ext_iff, fieldN_val]
  simp only [decodeClass8, hnibble, List.mem_cons, List.not_mem_nil, or_false]
  split_ifs <;> simp_all
  omega

/-- The low byte is the sub-opcode in class E. -/
theorem decodeClassE_eq_error_iff (w : Word) :
    decodeClassE w = .error (.undefinedOpcode w) ↔ w.toNat % 256 ∉ [0x9E, 0xA1] := by
  have hbyte : ∀ b : Byte, fieldKK w = b ↔ w.toNat % 256 = b.toNat := fun b => by rw [← BitVec.toNat_inj, fieldKK_toNat]
  simp only [decodeClassE, hbyte]
  split_ifs <;> simp_all

/-- The low byte is the sub-opcode in class F. -/
theorem decodeClassF_eq_error_iff (w : Word) :
    decodeClassF w = .error (.undefinedOpcode w) ↔
      w.toNat % 256 ∉ [0x07, 0x0A, 0x15, 0x18, 0x1E, 0x29, 0x33, 0x55, 0x65] := by
  have hbyte : ∀ b : Byte, fieldKK w = b ↔ w.toNat % 256 = b.toNat := fun b => by rw [← BitVec.toNat_inj, fieldKK_toNat]
  simp only [decodeClassF, hbyte]
  split_ifs <;> simp_all

/-- The decoder rejects a word by that word's name and no other way. -/
theorem decodeWord_error {w : Word} {r : DecodeReject} (h : decodeWord w = .error r) : r = .undefinedOpcode w := by
  unfold decodeWord at h
  split at h
  case h_1 => unfold decodeClass0 at h; split_ifs at h; exact (Except.error.inj h).symm
  case h_6 | h_10 => split_ifs at h; exact (Except.error.inj h).symm
  case h_9 => unfold decodeClass8 at h; split_ifs at h; exact (Except.error.inj h).symm
  case h_15 => unfold decodeClassE at h; split_ifs at h; exact (Except.error.inj h).symm
  case h_16 => unfold decodeClassF at h; split_ifs at h; exact (Except.error.inj h).symm
  case h_17 => exact (Except.error.inj h).symm
  all_goals cases h

/-- So a word is rejected exactly when it does not decode. -/
theorem decodeWord_eq_error_iff (w : Word) :
    decodeWord w = .error (.undefinedOpcode w) ↔ ¬∃ i, decodeWord w = .ok i := by
  cases h : decodeWord w with
  | ok i => simp
  | error r => simp [decodeWord_error h]

/-! ### The encoder and the decoder are inverse to each other (R45) -/

/-- Every instruction is read back from its word: its class and its sub-opcode select its arm of the decoder, and its
operands are the fields of its format. -/
@[simp] theorem decodeWord_encode (i : Instr) : decodeWord (encode i) = .ok i := by
  cases i
  case clearScreen | ret => rfl
  case jump | call | setIndex | jumpWithOffset => simp [encode, decodeWord]
  case skipIfEqual | skipIfNotEqual | loadImmediate | addImmediate | randomize => simp [encode, decodeWord]
  case skipIfRegsEqual | skipIfRegsNotEqual | draw => simp [encode, decodeWord]
  case copy | or | and | xor | add | sub | shiftRight | subReverse | shiftLeft =>
    simp [encode, decodeWord, decodeClass8]
  case skipIfKeyPressed | skipIfKeyNotPressed => simp [encode, decodeWord, decodeClassE]
  case readDelayTimer | waitForKey | setDelayTimer | setSoundTimer | addToIndex | spriteAddress | storeBcd |
      storeRegisters | loadRegisters =>
    simp [encode, decodeWord, decodeClassF]

theorem encode_of_decodeClass0 {w : Word} {i : Instr} (h : decodeClass0 w = .ok i) : encode i = w := by
  unfold decodeClass0 at h
  split_ifs at h <;> obtain rfl := Except.ok.inj h <;> exact (‹w = _›).symm

theorem encode_of_decodeClass8 {w : Word} {i : Instr} (hc : fieldClass w = 0x8) (h : decodeClass8 w = .ok i) :
    encode i = w := by
  have hw : formatXYN 0x8 (fieldX w) (fieldY w) (fieldN w) = w := hc ▸ formatXYN_fields w
  unfold decodeClass8 at h
  split_ifs at h <;> obtain rfl := Except.ok.inj h <;> simp_all [encode]

theorem encode_of_decodeClassE {w : Word} {i : Instr} (hc : fieldClass w = 0xE) (h : decodeClassE w = .ok i) :
    encode i = w := by
  have hw : formatXKK 0xE (fieldX w) (fieldKK w) = w := hc ▸ formatXKK_fields w
  unfold decodeClassE at h
  split_ifs at h <;> obtain rfl := Except.ok.inj h <;> simp_all [encode]

theorem encode_of_decodeClassF {w : Word} {i : Instr} (hc : fieldClass w = 0xF) (h : decodeClassF w = .ok i) :
    encode i = w := by
  have hw : formatXKK 0xF (fieldX w) (fieldKK w) = w := hc ▸ formatXKK_fields w
  unfold decodeClassF at h
  split_ifs at h <;> obtain rfl := Except.ok.inj h <;> simp_all [encode]

/-- The decoded instruction's word is the word it was decoded from, class by class. -/
theorem encode_of_decodeWord {w : Word} {i : Instr} (h : decodeWord w = .ok i) : encode i = w := by
  have hnnn := formatNNN_fields w
  have hxkk := formatXKK_fields w
  have hxyn := formatXYN_fields w
  unfold decodeWord at h
  split at h
  case h_1 => exact encode_of_decodeClass0 h
  case h_6 hc | h_10 hc =>
    split_ifs at h with hn
    obtain rfl := Except.ok.inj h
    rwa [hc, hn] at hxyn
  case h_9 hc => exact encode_of_decodeClass8 hc h
  case h_15 hc => exact encode_of_decodeClassE hc h
  case h_16 hc => exact encode_of_decodeClassF hc h
  case h_17 => cases h
  all_goals obtain rfl := Except.ok.inj h; simp_all [encode]

/-- The bytes of an instruction in memory order, with any bytes after them. -/
theorem decodeBytes_encodeBytes (i : Instr) (rest : List Byte) :
    decodeBytes (encodeBytes i ++ rest) = .ok (i, rest) := by
  simp [encodeBytes, decodeBytes]

/-! ### The opcode map as data (R43) -/

/-- The word of every instruction selects the row of its name. -/
theorem selectsItsRow : ∀ i : Instr, Laws.SelectsItsRow.Statement i
  | .clearScreen => Laws.SelectsItsRow.clearScreen
  | .ret => Laws.SelectsItsRow.ret
  | .jump nnn => Laws.SelectsItsRow.jump nnn
  | .call nnn => Laws.SelectsItsRow.call nnn
  | .skipIfEqual x kk => Laws.SelectsItsRow.skipIfEqual x kk
  | .skipIfNotEqual x kk => Laws.SelectsItsRow.skipIfNotEqual x kk
  | .skipIfRegsEqual x y => Laws.SelectsItsRow.skipIfRegsEqual x y
  | .loadImmediate x kk => Laws.SelectsItsRow.loadImmediate x kk
  | .addImmediate x kk => Laws.SelectsItsRow.addImmediate x kk
  | .copy x y => Laws.SelectsItsRow.copy x y
  | .or x y => Laws.SelectsItsRow.or x y
  | .and x y => Laws.SelectsItsRow.and x y
  | .xor x y => Laws.SelectsItsRow.xor x y
  | .add x y => Laws.SelectsItsRow.add x y
  | .sub x y => Laws.SelectsItsRow.sub x y
  | .shiftRight x y => Laws.SelectsItsRow.shiftRight x y
  | .subReverse x y => Laws.SelectsItsRow.subReverse x y
  | .shiftLeft x y => Laws.SelectsItsRow.shiftLeft x y
  | .skipIfRegsNotEqual x y => Laws.SelectsItsRow.skipIfRegsNotEqual x y
  | .setIndex nnn => Laws.SelectsItsRow.setIndex nnn
  | .jumpWithOffset nnn => Laws.SelectsItsRow.jumpWithOffset nnn
  | .randomize x kk => Laws.SelectsItsRow.randomize x kk
  | .draw x y n => Laws.SelectsItsRow.draw x y n
  | .skipIfKeyPressed x => Laws.SelectsItsRow.skipIfKeyPressed x
  | .skipIfKeyNotPressed x => Laws.SelectsItsRow.skipIfKeyNotPressed x
  | .readDelayTimer x => Laws.SelectsItsRow.readDelayTimer x
  | .waitForKey x => Laws.SelectsItsRow.waitForKey x
  | .setDelayTimer x => Laws.SelectsItsRow.setDelayTimer x
  | .setSoundTimer x => Laws.SelectsItsRow.setSoundTimer x
  | .addToIndex x => Laws.SelectsItsRow.addToIndex x
  | .spriteAddress x => Laws.SelectsItsRow.spriteAddress x
  | .storeBcd x => Laws.SelectsItsRow.storeBcd x
  | .storeRegisters x => Laws.SelectsItsRow.storeRegisters x
  | .loadRegisters x => Laws.SelectsItsRow.loadRegisters x

/-- Two different rows differ in a bit that both masks fix. -/
theorem opTable_patterns_disjoint :
    ∀ q ∈ opTable, ∀ r ∈ opTable, q.pat &&& r.mask = r.pat &&& q.mask → q = r := by decide

/-- So no word selects two rows. -/
theorem eq_of_selects {q r : OpRow} {w : Word} (hq : q ∈ opTable) (hr : r ∈ opTable) (hqw : q.selects w = true)
    (hrw : r.selects w = true) : q = r := by
  have hqw : w &&& q.mask = q.pat := eq_of_beq hqw
  have hrw : w &&& r.mask = r.pat := eq_of_beq hrw
  refine opTable_patterns_disjoint q hq r hr ?_
  calc q.pat &&& r.mask = w &&& q.mask &&& r.mask := by rw [hqw]
    _ = w &&& r.mask &&& q.mask := by ac_rfl
    _ = r.pat &&& q.mask := by rw [hrw]

/-- The four kinds of row by their masks, with the patterns of each kind. -/
theorem opTable_kinds : ∀ r ∈ opTable,
    (r.mask = 0xFFFF ∧ r.pat.toNat ∈ [0x00E0, 0x00EE]) ∨
    (r.mask = 0xF000 ∧ r.pat.toNat / 4096 ∉ [0x0, 0x5, 0x8, 0x9, 0xE, 0xF]) ∨
    (r.mask = 0xF00F ∧ r.pat.toNat ∈ [0x5000, 0x8000, 0x8001, 0x8002, 0x8003, 0x8004, 0x8005, 0x8006, 0x8007, 0x800E,
      0x9000]) ∨
    (r.mask = 0xF0FF ∧ r.pat.toNat ∈ [0xE09E, 0xE0A1, 0xF007, 0xF00A, 0xF015, 0xF018, 0xF01E, 0xF029, 0xF033, 0xF055,
      0xF065]) := by decide

/-! ### The obligations -/

/-- Settles O1: the word is decoded to its instruction, and its two bytes, put together again, are the word. -/
theorem decodeInvertsEncode : Obligations.DecodeInvertsEncode := fun i rest =>
  ⟨decodeWord_encode i, decodeBytes_encodeBytes i rest⟩

/-- Settles O2, class by class (`encode_of_decodeWord`). -/
theorem encodeInvertsDecode : Obligations.EncodeInvertsDecode := fun _ _ => encode_of_decodeWord

/-- Settles O4: the class selects the arm of the decoder, whose rejected words are known for every class. -/
theorem undefinedWordsListed : Obligations.UndefinedWordsListed := by
  intro w
  have hclass := fieldClass_toNat w
  have hn : fieldN w = 0 ↔ w.toNat % 16 = 0 := by rw [Fin.ext_iff, fieldN_val]; rfl
  unfold decodeWord
  split
  case h_17 => have := fieldClass_cases w; simp_all
  case h_1 hc => rw [hc] at hclass; rw [decodeClass0_eq_error_iff]; simp [← hclass]
  case h_6 hc | h_10 hc => rw [hc] at hclass; split_ifs <;> simp_all [← hclass]
  case h_9 hc => rw [hc] at hclass; rw [decodeClass8_eq_error_iff]; simp [← hclass]
  case h_15 hc => rw [hc] at hclass; rw [decodeClassE_eq_error_iff]; simp [← hclass]
  case h_16 hc => rw [hc] at hclass; rw [decodeClassF_eq_error_iff]; simp [← hclass]
  all_goals rename_i hc; rw [hc] at hclass; simp [← hclass]

/-- Settles O5: the row of the instruction's name is selected, and no word selects two rows. -/
theorem encodingSelectsItsRowOnly : Obligations.EncodingSelectsItsRowOnly := by
  intro i
  obtain ⟨r, hr, hname, hsel⟩ := selectsItsRow i
  exact ⟨r, hr, hname, hsel, fun q hq hqsel => eq_of_selects hq hr hqsel hsel⟩

/-- A word that selects a row is in no undefined group, whichever the kind of the row. -/
theorem decodeWord_ok_of_selects {w : Word} {r : OpRow} (hr : r ∈ opTable) (h : r.selects w = true) :
    ∃ i, decodeWord w = .ok i := by
  by_contra hno
  have hgroups := (undefinedWordsListed w).1 ((decodeWord_eq_error_iff w).2 hno)
  obtain ⟨m, p, mask⟩ := r
  simp only [List.mem_cons, List.not_mem_nil, or_false, not_or] at hgroups
  rcases opTable_kinds _ hr with ⟨rfl, hp⟩ | ⟨rfl, hp⟩ | ⟨rfl, hp⟩ | ⟨rfl, hp⟩ <;>
    simp only [List.mem_cons, List.not_mem_nil, or_false, not_or] at hp
  · rw [selects_FFFF] at h; omega
  · rw [selects_F000] at h; omega
  · rw [selects_F00F] at h; omega
  · rw [selects_F0FF] at h; omega

/-- Settles O3: a decoded word is the word of an instruction, which selects its row; the converse is
`decodeWord_ok_of_selects`. -/
theorem wordsWithoutRowRejected : Obligations.WordsWithoutRowRejected := by
  intro w
  have hiff : (∃ i, decodeWord w = .ok i) ↔ ∃ r ∈ opTable, r.selects w = true := by
    refine ⟨fun ⟨i, hi⟩ => ?_, fun ⟨r, hr, hsel⟩ => decodeWord_ok_of_selects hr hsel⟩
    obtain ⟨r, hr, -, hsel⟩ := selectsItsRow i
    exact ⟨r, hr, encode_of_decodeWord hi ▸ hsel⟩
  exact ⟨hiff, by rw [decodeWord_eq_error_iff, hiff]; simp⟩

/-- Settles O6: the decoder evaluates on each listed word. -/
theorem listedWordsDecode : Obligations.ListedWordsDecode := by
  unfold Obligations.ListedWordsDecode
  decide

end Sys2Proof
end

section
/-! PROOFS. The fetch and the step around the instruction (spec/20_memory.md rule R29, spec/30_encoding.md rule R44,
spec/45_host_operations.md rule R90). -/

namespace Sys2Proof.Machine

/-- Two bytes that can be read at `pc` are the fetched word. -/
theorem fetch_of_memRead {s : State} {hi lo : Byte} (hhi : memRead s s.pc.toNat = some hi)
    (hlo : memRead s (s.pc.toNat + 1) = some lo) : fetch s = .ok (wordOfBytes hi lo) := by
  simp [fetch, hhi, hlo]

/-- The two bytes at the head of a decoded list decode as a word. -/
theorem decodeWord_of_decodeBytes {hi lo : Byte} {rest : List Byte} {i : Instr}
    (h : decodeBytes (hi :: lo :: rest) = .ok (i, rest)) : decodeWord (wordOfBytes hi lo) = .ok i := by
  rw [decodeBytes] at h
  split at h
  next j hj =>
    obtain rfl : j = i := by simpa using h
    exact hj
  next => cases h

/-- A step at a decoded instruction executes it. -/
theorem step_of_fetchInstr {s : State} {i : Instr} (h : fetchInstr s = .ok i) : step s = exec i s := by
  simp [step, h]

/-- A step at an undefined word fails and changes nothing. -/
theorem step_of_undefined {s : State} {w : Word} (hf : fetch s = .ok w)
    (hd : decodeWord w = .error (.undefinedOpcode w)) : step s = .fault (.undefinedOpcode w s) := by
  simp [step, fetchInstr, hf, hd, raiseError]

/-- A step whose two bytes do not both lie in memory fails at the first that does not. -/
theorem step_of_pc_ge {s : State} (h : memSize ≤ s.pc.toNat + 1) :
    step s = .fault (.invalidAddress (max memSize s.pc.toNat) s) := by
  have hf : fetch s = .error (max memSize s.pc.toNat) := (fetch_spec s).trans (if_neg (Nat.not_lt.2 h))
  simp [step, fetchInstr, hf, raiseError]

/-- Settles O7, by the range of `pc`. -/
theorem fetchBigEndianBounded : Obligations.FetchBigEndianBounded := by
  intro s
  refine ⟨fun h => ?_, fun h => ?_, fun h => ?_⟩
  · have hhi := memRead_of_lt (s := s) (show s.pc.toNat < 4096 by omega)
    have hlo := memRead_of_lt (s := s) h
    exact ⟨_, _, _, fetch_of_memRead hhi hlo, hhi, hlo, wordOfBytes_toNat _ _⟩
  · rw [step_of_pc_ge (Nat.le_of_eq (congrArg (· + 1) h.symm)), h]; rfl
  · rw [step_of_pc_ge (Nat.le_succ_of_le h), Nat.max_eq_right h]

/-- Settles O8: the two bytes are the fetched word, which decodes to the instruction. -/
theorem stepRunsDecodedInstruction : Obligations.StepRunsDecodedInstruction := fun _ _ _ _ _ hhi hlo hd =>
  step_of_fetchInstr (fetchInstr_ok.2 ⟨_, fetch_of_memRead hhi hlo, decodeWord_of_decodeBytes hd⟩)

/-- Settles O9: a word that selects no row is rejected by the decoder (O3). -/
theorem undefinedOpcodeChangesNothing : Obligations.UndefinedOpcodeChangesNothing := fun _ w hf hnone =>
  step_of_undefined hf ((wordsWithoutRowRejected w).2.2 hnone)

end Sys2Proof.Machine
end

section
/-! PROOFS. The memory primitives and the return stack (spec/20_memory.md rule R28, spec/10_state.md rule R16). -/

namespace Sys2Proof.Machine

open Sys2Proof.Claims

/-- Settles O11: below 4096 both primitives are a read and a write of the canonical memory. -/
theorem memoryAccessLaws : Obligations.MemoryAccessLaws := by
  intro s a b hm
  refine ⟨fun h => ⟨memRead_of_ge h, memWrite_of_ge h⟩, fun h => ?_⟩
  have hread : ∀ a', (s.mem.write a b).read a' = if a' = a then b else s.mem.read a' := fun a' => Memory.read_write hm
  refine ⟨_, _, memRead_of_lt h, memWrite_of_lt h, ?_, fun a' ha' => ?_, rfl⟩
  · rw [memRead_of_lt h, State.setMem_mem, hread, if_pos rfl]
  · simp only [memRead, State.setMem_mem, hread, if_neg ha']

/-- One pop more at the end: the value popped last comes last. -/
theorem popAll_succ {n : Nat} {s t u : State} {ws : List Word} {w : Word} (hall : popAll n s = some (ws, t))
    (hpop : pop t = some (w, u)) : popAll (n + 1) s = some (ws ++ [w], u) := by
  induction n generalizing s ws with
  | zero =>
    obtain ⟨rfl, rfl⟩ : [] = ws ∧ s = t := by simpa [popAll] using hall
    simp [popAll, hpop]
  | succ n ih =>
    rw [popAll] at hall ⊢
    split at hall
    · cases hall
    next v s' _ =>
      split at hall
      · cases hall
      next vs t' hrest =>
        obtain ⟨rfl, rfl⟩ : v :: vs = ws ∧ t' = t := by simpa using hall
        simp [ih hrest]

/-- Values that fit are pushed above the live entries, and as many pops give them back in reverse. -/
theorem pushAll_popAll (ws : List Word) (s : State) (h : s.sp.val + ws.length ≤ 16) :
    ∃ t u, pushAll ws s = some t ∧ t.sp.val = s.sp.val + ws.length ∧ t = { s with stk := t.stk, sp := t.sp } ∧
      (∀ k : Fin 16, k.val < s.sp.val → t.stk[k] = s.stk[k]) ∧
      popAll ws.length t = some (ws.reverse, u) ∧ u = { t with sp := s.sp } := by
  induction ws generalizing s with
  | nil => exact ⟨s, s, rfl, rfl, rfl, fun _ _ => rfl, rfl, rfl⟩
  | cons w ws ih =>
    rw [List.length_cons] at h
    obtain ⟨hsp, -⟩ | ⟨s', -, hpush, hsp', hstk', hframe'⟩ := push_spec s w
    · omega
    obtain ⟨t, u, hall, hspt, hframe, hstk, hpops, hu⟩ := ih s' (by omega)
    have hspu : u.sp = s'.sp := by rw [hu]
    obtain ⟨hsp, -⟩ | ⟨w', v, hpop, hspv, htop, hv⟩ := pop_spec u
    · omega
    have hw : w' = w := by
      have hstku : u.stk = t.stk := by rw [hu]
      rw [htop ⟨s.sp.val, by omega⟩ (by rw [hspu, hsp']), hstku, hstk _ (by simp [hsp']), hstk', if_pos rfl]
    subst hw
    refine ⟨t, v, ?_, by rw [List.length_cons]; omega, by rw [hframe, hframe'], fun k hk => ?_, ?_, ?_⟩
    · rw [pushAll, hpush]; exact hall
    · rw [hstk k (by omega), hstk', if_neg (by omega)]
    · rw [List.length_cons, List.reverse_cons]; exact popAll_succ hpops hpop
    · rw [hv, hu, show v.sp = s.sp from Fin.ext (by rw [hspu] at hspv; omega)]

/-- Settles O12, by induction on the values pushed (`pushAll_popAll`). -/
theorem returnStackIsLifo : Obligations.ReturnStackIsLifo := by
  refine ⟨fun s ws h => ?_, fun s w h => ?_, fun s h => ?_⟩
  · obtain ⟨t, u, hall, hsp, hframe, -, hpops, hu⟩ := pushAll_popAll ws s h
    exact ⟨t, u, hall, hsp, hframe, hpops, hu⟩
  · exact dif_neg (by omega)
  · exact dif_neg (by omega)

end Sys2Proof.Machine
end

section
/-! PROOFS. The jump with offset, the ALU, the index register and the timer moves (spec/40_flow.md rule R56,
spec/41_alu.md rules R61 to R70, spec/42_index_memory.md rules R73, R74, spec/44_input_timers.md rules R85, R87,
R88). -/

namespace Sys2Proof.Machine

open Sys2Proof.Claims

/-! ### Bytes as numbers -/

/-- A zero-extended register keeps its value. -/
@[simp] theorem State.wideV_toNat (s : State) (x : Reg) : (s.wideV x).toNat = (s.getV x).toNat :=
  BitVec.toNat_setWidth_of_le (by decide)

/-- The byte difference is the exact difference, plus 256 when it borrows (R59). -/
theorem subByte_toNat (a b : Byte) :
    (subByte a b).toNat = if b.toNat ≤ a.toNat then a.toNat - b.toNat else a.toNat + 256 - b.toNat := by
  rw [subByte, BitVec.toNat_ofNat]
  split <;> omega

/-- A logical shift right halves (R67). -/
theorem shiftRightByte_toNat (b : Byte) : (shiftRightByte b).toNat = b.toNat / 2 := by
  simp [shiftRightByte, Nat.shiftRight_eq_div_pow]

/-- A shift left doubles modulo 256 (R69). -/
theorem shiftLeftByte_toNat (b : Byte) : (shiftLeftByte b).toNat = b.toNat * 2 % 256 := by
  simp [shiftLeftByte, Nat.shiftLeft_eq]

/-- The bit shifted out on the right is the parity. -/
theorem bitOutRight_iff (b : Byte) : bitOutRight b = true ↔ b.toNat % 2 = 1 := by
  simp [bitOutRight, BitVec.getLsbD, Nat.testBit_zero]

/-- The bit shifted out on the left is the sign. -/
theorem bitOutLeft_iff (b : Byte) : bitOutLeft b = true ↔ 128 ≤ b.toNat := by
  simp only [bitOutLeft, BitVec.getLsbD, Nat.testBit_eq_decide_div_mod_eq, decide_eq_true_eq]
  omega

/-- The low nibble is the remainder modulo 16. -/
theorem and_0F_toNat (b : Byte) : (b &&& 0x0F#8).toNat = b.toNat % 16 := by
  rw [BitVec.toNat_and]
  exact Nat.and_two_pow_sub_one_eq_mod b.toNat 4

/-- The shifts read the register that `SHIFT_SRC` selects (D6). -/
theorem shiftOperand_eq {s : State} {x y : Reg} {b : Byte}
    (h : s.cfg.shiftSrc = .vx ∧ b = s.v[x] ∨ s.cfg.shiftSrc = .vy ∧ b = s.v[y]) : shiftOperand s x y = b := by
  obtain ⟨hsrc, rfl⟩ | ⟨hsrc, rfl⟩ := h <;> simp [shiftOperand, hsrc, State.getV]

/-! ### The shared end of the flag-writing instructions -/

/-- The result goes to `V[x]`, the flag to `VF` after it, `pc` is 2 further, nothing else changes (R57). -/
theorem State.advance_setResultFlag_spec (s : State) (x : Reg) {r : Byte} {c : Bool} {n : Nat} {f : Prop}
    (hr : r.toNat = n) (hc : c = true ↔ f) : flaggedResult s (s.setResultFlag x r c).advance x n f := by
  have hget : ∀ q : Reg, (s.setResultFlag x r c).advance.v[q] =
      if q = vF then flagByte c else if q = x then r else s.v[q] := fun q => s.getV_setResultFlag x q r c
  refine ⟨fun hf => ?_, fun hf => ?_, fun hx => ?_, fun q hq hqF => ?_, rfl, rfl⟩
  · rw [hget, if_pos rfl, hc.2 hf]; rfl
  · rw [hget, if_pos rfl, Bool.eq_false_iff.2 fun h => hf (hc.1 h)]; rfl
  · rw [hget, if_neg hx, if_pos rfl, hr]
  · rw [hget, if_neg hqF, if_neg hq]

/-! ### The obligations -/

/-- Settles O17: the exact sum of a 12-bit and an 8-bit number fits in 16 bits. -/
theorem jumpWithOffsetIsExact : Obligations.JumpWithOffsetIsExact := by
  intro nnn s
  refine ⟨s.setPc (addrOperand nnn + s.wideV 0), rfl, ?_, rfl⟩
  have hsum : nnn.toNat + (s.getV 0).toNat < 65536 := by omega
  rw [State.setPc_pc, BitVec.toNat_add, addrOperand_toNat, State.wideV_toNat, Nat.mod_eq_of_lt hsum]
  rfl

/-- Settles O20: each is one register write; its bits are those of the operation. -/
theorem bitwiseOpsLeaveFlag : Obligations.BitwiseOpsLeaveFlag := by
  intro x y s
  obtain ⟨hc, hcframe⟩ := s.advance_setV_spec x (s.getV y)
  obtain ⟨ho, hoframe⟩ := s.advance_setV_spec x (s.getV x ||| s.getV y)
  obtain ⟨ha, haframe⟩ := s.advance_setV_spec x (s.getV x &&& s.getV y)
  obtain ⟨he, heframe⟩ := s.advance_setV_spec x (s.getV x ^^^ s.getV y)
  refine ⟨_, _, _, _, rfl, rfl, rfl, rfl, hc, fun k _ => ?_, fun k _ => ?_, fun k _ => ?_, ?_⟩
  · rw [ho]; exact BitVec.getLsbD_or
  · rw [ha]; exact BitVec.getLsbD_and
  · rw [he]; exact BitVec.getLsbD_xor
  · simp only [List.forall_mem_cons, List.not_mem_nil, false_implies, implies_true, and_true]
    exact ⟨hcframe, hoframe, haframe, heframe⟩

/-- Settles O21: the byte sum and the carry. -/
theorem addWritesSumAndCarry : Obligations.AddWritesSumAndCarry := fun x y s =>
  ⟨_, rfl, s.advance_setResultFlag_spec x (addByte_toNat (s.getV x) (s.getV y)) decide_eq_true_iff⟩

/-- Settles O22: the byte difference and the inverse of the borrow, both ways round. -/
theorem subWritesDifferenceAndNoBorrow : Obligations.SubWritesDifferenceAndNoBorrow := fun x y s =>
  ⟨_, _, rfl, rfl, s.advance_setResultFlag_spec x (subByte_toNat (s.getV x) (s.getV y)) decide_eq_true_iff,
    s.advance_setResultFlag_spec x (subByte_toNat (s.getV y) (s.getV x)) decide_eq_true_iff⟩

/-- Settles O23: the shifted operand and the bit shifted out. -/
theorem shiftsFollowParameter : Obligations.ShiftsFollowParameter := by
  intro x y s b hb
  obtain rfl := shiftOperand_eq hb
  exact ⟨_, _, rfl, rfl, s.advance_setResultFlag_spec x (shiftRightByte_toNat _) (bitOutRight_iff _),
    s.advance_setResultFlag_spec x (shiftLeftByte_toNat _) (bitOutLeft_iff _)⟩

/-- Settles O24: one register write of the draw AND `kk`, after the draw is counted. -/
theorem randomizeMasksTheDraw : Obligations.RandomizeMasksTheDraw := by
  intro x kk s
  obtain ⟨hx, hregs, hpc, -⟩ := s.countDraw.advance_setV_spec x (Config.randomByte s.draws &&& kk)
  exact ⟨_, rfl, fun k _ => by rw [hx]; exact BitVec.getLsbD_and, hregs, hpc, rfl, rfl⟩

/-- Settles O26: the 16-bit sum is the sum modulo 65536. -/
theorem addToIndexWraps : Obligations.AddToIndexWraps := by
  intro x s
  obtain ⟨hidx, hpc, hframe⟩ := s.advance_setIdx_spec (s.idx + s.wideV x)
  exact ⟨_, rfl, by rw [hidx, BitVec.toNat_add, State.wideV_toNat]; rfl, hpc, hframe⟩

/-- Settles O27: the glyph address with the low nibble as a remainder. -/
theorem spriteAddressOfLowNibble : Obligations.SpriteAddressOfLowNibble := by
  intro x s
  obtain ⟨hidx, hpc, hframe⟩ := s.advance_setIdx_spec (glyphAddr s.cfg (s.getV x))
  exact ⟨_, rfl, by rw [hidx, glyphAddr, BitVec.toNat_ofNat, and_0F_toNat]; rfl, hpc, hframe⟩

/-- Settles O38: the read is one register write, the other two are one timer write. -/
theorem timerMoves : Obligations.TimerMoves := fun x s => ⟨⟨_, rfl, s.advance_setV_spec x s.dt⟩, rfl, rfl⟩

end Sys2Proof.Machine
end

section
/-! PROOFS. The stores and the load (spec/42_index_memory.md rules R75 to R77, spec/20_memory.md rule R38). -/

namespace Sys2Proof.Machine

/-! ### What a store and a load can do -/

/-- A memory read depends on memory alone. -/
theorem memRead_congr {s t : State} (h : t.mem = s.mem) (a : Nat) : memRead t a = memRead s a := by
  rw [memRead, memRead, h]

/-- Everything a store of `n + 1` bytes from `I` on can do: it completes if the last byte lies in memory, else it fails
at the first address out of range; in both cases memory is all that changes before `pc`, and on a canonical memory the
bytes that lie inside it are stored, no other byte changes, and the canonical form is kept. -/
theorem storeBlock_spec (s : State) {bs : List Byte} {n : Nat} (hlen : bs.length = n + 1) :
    ∃ m : Memory,
      (s.mem.wf = true → m.wf = true ∧
        (∀ k b, bs[k]? = some b → effAddr s k < 4096 → memRead (s.setMem m) (effAddr s k) = some b) ∧
        ∀ a, (a < effAddr s 0 ∨ effAddr s n < a) → memRead (s.setMem m) a = memRead s a) ∧
      andThen (storeBytes (effAddr s 0) bs s) (fun t => .next t.advance) =
        if s.idx.toNat + n < 4096 then .next (s.setMem m).advance
        else .fault (.invalidAddress (max 4096 s.idx.toNat) (s.setMem m)) := by
  obtain ⟨m, hmem, hstore⟩ := storeBytes_spec bs (effAddr s 0) s
  have hne : bs ≠ [] := by rintro rfl; cases hlen
  simp only [hne, hlen, false_or, memSize_eq] at hstore
  refine ⟨m, fun hm => ?_, ?_⟩
  · obtain ⟨hwf, hread⟩ := hmem hm
    refine ⟨hwf, fun k b hk ha => ?_, fun a ha => ?_⟩
    · rw [memRead_of_lt ha, State.setMem_mem, hread _ ha, if_pos (by simp [effAddr])]
      simp [effAddr, hk]
    · simp only [memRead, State.setMem_mem]
      split
      next h =>
        rw [hread a h]
        split
        · rw [List.getElem?_eq_none (by simp only [effAddr] at *; omega)]; rfl
        · rfl
      next => rfl
  · rw [hstore]
    by_cases h : s.idx.toNat + n < 4096
    · rw [if_pos h, if_pos (by simp only [effAddr]; omega), andThen_next]
    · rw [if_neg h, if_neg (by simp only [effAddr]; omega), andThen_fault]; rfl

/-- `store-BCD` is a store of three bytes. -/
theorem exec_storeBcd_spec (x : Reg) (s : State) : ∃ m : Memory,
    (s.mem.wf = true → m.wf = true ∧
      (∀ k b, (bcdDigits (s.getV x))[k]? = some b → effAddr s k < 4096 →
        memRead (s.setMem m) (effAddr s k) = some b) ∧
      ∀ a, (a < effAddr s 0 ∨ effAddr s 2 < a) → memRead (s.setMem m) a = memRead s a) ∧
    exec (.storeBcd x) s = if s.idx.toNat + 2 < 4096 then .next (s.setMem m).advance
      else .fault (.invalidAddress (max 4096 s.idx.toNat) (s.setMem m)) := storeBlock_spec s rfl

/-- `store-registers` is a store of `x + 1` bytes, the `k`-th of them `V[k]`. -/
theorem exec_storeRegisters_spec (x : Reg) (s : State) : ∃ m : Memory,
    (s.mem.wf = true → m.wf = true ∧
      (∀ k : Reg, k.val ≤ x.val → effAddr s k.val < 4096 → memRead (s.setMem m) (effAddr s k.val) = some s.v[k]) ∧
      ∀ a, (a < effAddr s 0 ∨ effAddr s x.val < a) → memRead (s.setMem m) a = memRead s a) ∧
    exec (.storeRegisters x) s = if s.idx.toNat + x.val < 4096 then .next (s.setMem m).advance
      else .fault (.invalidAddress (max 4096 s.idx.toNat) (s.setMem m)) := by
  obtain ⟨m, hmem, hexec⟩ := storeBlock_spec s (length_blockBytes s x)
  refine ⟨m, fun hm => ?_, hexec⟩
  obtain ⟨hwf, hin, hout⟩ := hmem hm
  exact ⟨hwf, fun k hk ha => hin k.val _ (getElem?_blockBytes s x k hk) ha, hout⟩

/-- Everything `load-registers` can do: it completes if the last byte lies in memory, else it fails at the first address
out of range; in both cases the registers up to `x` whose byte lies in memory are loaded and no other. -/
theorem exec_loadRegisters_spec (x : Reg) (s : State) : ∃ f : Vector Byte 16,
    (∀ k : Reg, k.val ≤ x.val → effAddr s k.val < 4096 → memRead s (effAddr s k.val) = some f[k]) ∧
    (∀ k : Reg, (4096 ≤ effAddr s k.val ∨ x.val < k.val) → f[k] = s.v[k]) ∧
    exec (.loadRegisters x) s = if s.idx.toNat + x.val < 4096 then .next { s with v := f }.advance
      else .fault (.invalidAddress (max 4096 s.idx.toNat) { s with v := f }) := by
  obtain ⟨f, hin, hout, hload⟩ := loadBytes_spec (regsUpTo x) (effAddr s 0) s (nodup_regsUpTo x)
  have hne : regsUpTo x ≠ [] := fun h => by simpa [h] using length_regsUpTo x
  simp only [hne, length_regsUpTo, false_or, memSize_eq] at hload
  refine ⟨f, fun k hk ha => ?_, fun k hk => hout k fun j hj => ?_, ?_⟩
  · rw [hin k.val k ((getElem?_regsUpTo x k.val k).2 ⟨rfl, hk⟩) ha]
    exact memRead_of_lt ha
  · obtain ⟨rfl, hjx⟩ := (getElem?_regsUpTo x j k).1 hj
    exact hk.resolve_right (Nat.not_lt.2 hjx)
  · rw [exec, execLoadRegisters, hload]
    by_cases h : s.idx.toNat + x.val < 4096
    · rw [if_pos h, if_pos (by simp only [effAddr]; omega), andThen_next]
    · rw [if_neg h, if_neg (by simp only [effAddr]; omega), andThen_fault]; rfl

/-- The decimal digits of a byte, hundreds first. -/
theorem bcdDigits_toNat (b : Byte) : ∃ h d o, bcdDigits b = [h, d, o] ∧
    h.toNat = b.toNat / 100 ∧ d.toNat = b.toNat / 10 % 10 ∧ o.toNat = b.toNat % 10 := by
  refine ⟨_, _, _, rfl, ?_, ?_, ?_⟩ <;> rw [BitVec.toNat_ofNat] <;> omega

/-! ### The obligations -/

/-- Settles O28: the three bytes stored are the decimal digits. -/
theorem storeBcdWritesDigits : Obligations.StoreBcdWritesDigits := by
  intro x s hm hfits
  obtain ⟨m, hmem, hexec⟩ := exec_storeBcd_spec x s
  obtain ⟨h, d, o, hdigits, hh, hd, ho⟩ := bcdDigits_toNat (s.getV x)
  obtain ⟨-, hin, hout⟩ := hmem hm
  rw [hdigits] at hin
  exact ⟨_, h, d, o, hexec.trans (if_pos hfits), hin 0 h rfl (show s.idx.toNat + 0 < 4096 by omega), hh,
    hin 1 d rfl (show s.idx.toNat + 1 < 4096 by omega), hd, hin 2 o rfl hfits, ho, hout, rfl, rfl⟩

/-- Settles O29: the `k`-th byte stored is `V[k]`. -/
theorem storeRegistersWritesBlock : Obligations.StoreRegistersWritesBlock := by
  intro x s hm hfits
  obtain ⟨m, hmem, hexec⟩ := exec_storeRegisters_spec x s
  obtain ⟨-, hin, hout⟩ := hmem hm
  exact ⟨_, hexec.trans (if_pos hfits), fun k hk => hin k hk (show s.idx.toNat + k.val < 4096 by omega), hout, rfl, rfl⟩

/-- Settles O30: every byte lies in memory, so every register up to `x` is loaded. -/
theorem loadRegistersReadsBlock : Obligations.LoadRegistersReadsBlock := by
  intro x s hfits
  obtain ⟨f, hin, hout, hexec⟩ := exec_loadRegisters_spec x s
  exact ⟨_, hexec.trans (if_pos hfits), fun k hk => hin k hk (show s.idx.toNat + k.val < 4096 by omega),
    fun k hk => hout k (.inr hk), rfl, rfl⟩

/-- Settles O31: the failing case of each store. -/
theorem storesFailPartWay : Obligations.StoresFailPartWay := by
  intro x s hm
  refine ⟨fun hfail => ?_, fun hfail => ?_⟩
  · obtain ⟨m, hmem, hexec⟩ := exec_storeRegisters_spec x s
    obtain ⟨-, hin, hout⟩ := hmem hm
    exact ⟨_, hexec.trans (if_neg (Nat.not_lt.2 hfail)), hin, hout, rfl⟩
  · obtain ⟨m, hmem, hexec⟩ := exec_storeBcd_spec x s
    obtain ⟨h, d, o, hdigits, hh, hd, -⟩ := bcdDigits_toNat (s.getV x)
    obtain ⟨-, hin, hout⟩ := hmem hm
    rw [hdigits] at hin
    exact ⟨_, hexec.trans (if_neg (Nat.not_lt.2 hfail)), fun ha => ⟨h, hin 0 h rfl ha, hh⟩,
      fun ha => ⟨d, hin 1 d rfl ha, hd⟩, fun a ha => hout a (.inl ha), rfl⟩

/-- Settles O32: the failing case of the load. -/
theorem loadFailsPartWay : Obligations.LoadFailsPartWay := by
  intro x s hfail
  obtain ⟨f, hin, hout, hexec⟩ := exec_loadRegisters_spec x s
  exact ⟨_, hexec.trans (if_neg (Nat.not_lt.2 hfail)), fun k ha hk => hin k hk ha, hout, rfl⟩

end Sys2Proof.Machine
end

section
/-! PROOFS. Drawing (spec/43_display.md rules R78, R80, R81). -/

namespace Sys2Proof.Machine

open Sys2Proof.Claims

/-! ### What a draw can do -/

/-- The `n` sprite rows at `I`. -/
def spriteRows (s : State) (n : Nat) : List Byte := (List.range n).map fun r => s.mem.read (effAddr s r)

/-- The state after a draw whose rows lie in memory. -/
def State.drawn (s : State) (x y : Reg) (n : Nat) : State :=
  ((s.setFb (displayDraw s.fb (s.getV x) (s.getV y) (spriteRows s n)).1).setV vF
    (flagByte (displayDraw s.fb (s.getV x) (s.getV y) (spriteRows s n)).2)).advance

/-- Everything `draw` can do: with no row or all rows in memory it draws them, else it fails at the first address out of
range and changes nothing. -/
theorem exec_draw_spec (x y : Reg) (n : Fin 16) (s : State) :
    exec (.draw x y n) s = if n.val = 0 ∨ s.idx.toNat + n.val ≤ 4096 then .next (s.drawn x y n.val)
      else .fault (.invalidAddress (max 4096 s.idx.toNat) s) := by
  have hrows := readRows_spec s n.val (effAddr s 0)
  rw [exec, execDraw]
  by_cases h : n.val = 0 ∨ s.idx.toNat + n.val ≤ 4096
  · rw [hrows.trans (if_pos h), if_pos h]; rfl
  · rw [hrows.trans (if_neg h), if_neg h]; rfl

@[simp] theorem length_spriteRows (s : State) (n : Nat) : (spriteRows s n).length = n := by
  simp [spriteRows]

/-- The pixels drawn are those the sprite covers. -/
theorem mem_spritePixels_spriteRows {s : State} {x y : Reg} {n : Nat} {p : Pixel} :
    p ∈ spritePixels (s.getV x) (s.getV y) 0 (spriteRows s n) ↔ spriteCovers s x y n p := by
  have hrow : ∀ k b, (spriteRows s n)[k]? = some b ↔ k < n ∧ s.mem.read (effAddr s k) = b := by
    intro k b
    simp [spriteRows, List.getElem?_eq_some_iff]
  rw [mem_spritePixels]
  constructor
  · rintro ⟨k, b, hk, c, hc, hbit, hy, hx⟩
    obtain ⟨hkn, rfl⟩ := (hrow k b).1 hk
    rw [Nat.zero_add] at hy
    exact ⟨k, c, hkn, hc, hbit, hy, hx⟩
  · rintro ⟨k, c, hk, hc, hbit, hy, hx⟩
    exact ⟨k, _, (hrow k _).2 ⟨hk, rfl⟩, c, hc, hbit, by rw [Nat.zero_add]; exact hy, hx⟩

/-- A flag byte of 1 is a set flag. -/
theorem flagByte_eq_one_iff {c : Bool} : flagByte c = 0x01#8 ↔ c = true := by
  cases c <;> decide

theorem State.drawn_fb (s : State) (x y : Reg) (n : Nat) :
    (s.drawn x y n).fb = (displayDraw s.fb (s.getV x) (s.getV y) (spriteRows s n)).1 := rfl

/-- `VF` holds the collision after a draw. -/
theorem State.drawn_vF (s : State) (x y : Reg) (n : Nat) :
    (s.drawn x y n).v[vF] = flagByte (displayDraw s.fb (s.getV x) (s.getV y) (spriteRows s n)).2 :=
  (State.getV_setV _ vF vF _).trans (if_pos rfl)

/-- No other register changes in a draw. -/
theorem State.drawn_regsEqBut (s : State) (x y : Reg) (n : Nat) : regsEqBut s (s.drawn x y n) vF := fun r hr =>
  (State.getV_setV _ vF r _).trans (if_neg hr)

/-- Drawing twice: the first draw inverts the sprite's pixels, the second inverts them back and meets the pixels that
the first turned on. -/
theorem displayDraw_twice (f : Framebuffer) (x0 y0 : Byte) (rows : List Byte) (h : rows.length ≤ 15) :
    (displayDraw (displayDraw f x0 y0 rows).1 x0 y0 rows).1 = f ∧
    ((displayDraw (displayDraw f x0 y0 rows).1 x0 y0 rows).2 = true ↔
      ∃ p, pixelAt f p = false ∧ pixelAt (displayDraw f x0 y0 rows).1 p = true) := by
  obtain ⟨hfirst, -⟩ := displayDraw_spec f x0 y0 rows (by omega)
  obtain ⟨hsecond, hcollision⟩ := displayDraw_spec (displayDraw f x0 y0 rows).1 x0 y0 rows (by omega)
  refine ⟨framebuffer_ext fun p => ?_, ?_⟩
  · rw [hsecond, hfirst]
    split <;> simp
  · rw [hcollision, List.any_eq_true]
    refine exists_congr fun p => ?_
    rw [hfirst]
    split <;> simp_all

/-! ### The obligations -/

/-- Settles O34: the pixels drawn are those the sprite covers, and the collision is that one of them was on. -/
theorem drawInvertsSpritePixels : Obligations.DrawInvertsSpritePixels := by
  intro x y n s hfits
  obtain ⟨hpixels, hcollision⟩ :=
    displayDraw_spec s.fb (s.getV x) (s.getV y) (spriteRows s n.val) (by rw [length_spriteRows]; omega)
  refine ⟨_, (exec_draw_spec x y n s).trans (if_pos hfits), fun p hp => ?_, fun p hp => ?_, fun ⟨p, hp, hon⟩ => ?_,
    fun hoff => ?_, s.drawn_regsEqBut x y n.val, rfl, rfl⟩
  · exact (hpixels p).trans (if_pos (mem_spritePixels_spriteRows.2 hp))
  · exact (hpixels p).trans (if_neg (mt mem_spritePixels_spriteRows.1 hp))
  · rw [State.drawn_vF, hcollision, flagByte_eq_one_iff, List.any_eq_true]
    exact ⟨p, mem_spritePixels_spriteRows.2 hp, hon⟩
  · have hnone : (spritePixels (s.getV x) (s.getV y) 0 (spriteRows s n.val)).any (pixelAt s.fb) = false :=
      List.any_eq_false.2 fun p hp => by simp [hoff p (mem_spritePixels_spriteRows.1 hp)]
    rw [State.drawn_vF, hcollision, hnone]; rfl

/-- Settles O35: the failing case of `draw`. -/
theorem drawOutOfRangeChangesNothing : Obligations.DrawOutOfRangeChangesNothing := fun x y n s h1 hout =>
  (exec_draw_spec x y n s).trans (if_neg (by omega))

/-- Settles O36: the second draw reads the same rows at the same coordinates, since the first changed neither `I` nor
memory. -/
theorem drawTwiceRestores : Obligations.DrawTwiceRestores := by
  refine ⟨displayDraw_twice, fun x y n s t ht hx hy => ?_⟩
  rw [exec_draw_spec] at ht
  split at ht
  case isFalse => cases ht
  case isTrue hfits =>
    cases ht
    have hx : (s.drawn x y n.val).getV x = s.getV x := hx
    have hy : (s.drawn x y n.val).getV y = s.getV y := hy
    have hrows : spriteRows (s.drawn x y n.val) n.val = spriteRows s n.val := rfl
    obtain ⟨hrestored, hcollision⟩ :=
      displayDraw_twice s.fb (s.getV x) (s.getV y) (spriteRows s n.val) (by rw [length_spriteRows]; omega)
    refine ⟨_, (exec_draw_spec x y n _).trans (if_pos hfits), ?_, ?_⟩
    · rw [State.drawn_fb, hx, hy, hrows, State.drawn_fb, hrestored]
    · rw [State.drawn_vF, hx, hy, hrows, State.drawn_fb, flagByte_eq_one_iff, hcollision]

end Sys2Proof.Machine
end

section
/-! PROOFS. The wait for a key and the host's `setKey` (spec/44_input_timers.md rule R86, spec/45_host_operations.md
rules R90, R92). -/

namespace Sys2Proof.Machine

open Sys2Proof.Claims

/-! ### `wait-for-key` by what is latched -/

theorem latchedKey_eq_some_iff {s : State} {k : KeyNum} :
    latchedKey s = some k ↔ s.kwActive = true ∧ s.kwLatch = some k := by
  simp [latchedKey]

theorem latchedKey_eq_none_iff {s : State} : latchedKey s = none ↔ s.kwActive = false ∨ s.kwLatch = none := by
  cases h : s.kwActive <;> simp [latchedKey, h]

theorem exec_waitForKey_of_latchedKey {s : State} {x : Reg} {k : KeyNum} (h : latchedKey s = some k) :
    exec (.waitForKey x) s = .next ((s.setV x (BitVec.ofNat 8 k.val)).setKeyWait false none).advance := by
  simp [exec, execWaitForKey, h]

theorem exec_waitForKey_of_latchedKey_none {s : State} {x : Reg} (h : latchedKey s = none) :
    exec (.waitForKey x) s = .next { s with kwActive := true } := by
  simp [exec, execWaitForKey, h, State.setKeyWait]

/-! ### The step as the host sees it -/

/-- The next step returns `Waiting` at a `wait-for-key` without a latched key. -/
theorem willWait_iff {s : State} : willWait s = true ↔ waitAtPc s = true ∧ latchedKey s = none := by
  simp [willWait]

theorem hostStep_of_next {s t : State} (h : step s = .next t) :
    hostStep s = (t, if willWait s then .waiting else .ok) := by
  simp [hostStep, h]

theorem hostStep_of_fault {s : State} {e : Fault} (h : step s = .fault e) : hostStep s = (e.left, .err e.kind) := by
  simp [hostStep, h]

/-- A step at a `wait-for-key` without a latched key makes the wait pending and gives `Waiting`. -/
theorem hostStep_of_waiting {s : State} {x : Reg} (hi : fetchInstr s = .ok (.waitForKey x)) (hl : latchedKey s = none) :
    hostStep s = ({ s with kwActive := true }, .waiting) := by
  have hwait : willWait s = true := willWait_iff.2 ⟨waitAtPc_iff.2 ⟨x, hi⟩, hl⟩
  have hstep : step s = _ := (step_of_fetchInstr hi).trans (exec_waitForKey_of_latchedKey_none hl)
  rw [hostStep_of_next hstep, if_pos hwait]

/-- A step at a `wait-for-key` with a latched key completes it and gives `Ok`. -/
theorem hostStep_of_latchedKey {s : State} {x : Reg} {k : KeyNum} (hi : fetchInstr s = .ok (.waitForKey x))
    (hl : latchedKey s = some k) :
    hostStep s = (((s.setV x (BitVec.ofNat 8 k.val)).setKeyWait false none).advance, .ok) := by
  have hwait : ¬willWait s = true := fun h => by
    rw [willWait_iff, hl] at h
    cases h.2
  have hstep : step s = _ := (step_of_fetchInstr hi).trans (exec_waitForKey_of_latchedKey hl)
  rw [hostStep_of_next hstep, if_neg hwait]

/-! ### `setKey` (R92) -/

/-- A call of `setKey` that fills the latch: the press of a released key in a pending wait with an empty latch. -/
abbrev latches (s : State) (k : KeyNum) (p : Bool) : Prop :=
  p = true ∧ s.key[k] = false ∧ s.kwActive = true ∧ s.kwLatch = none

/-- Everything `setKey` does with a key number. -/
theorem setKey_spec (s : State) (k : KeyNum) (p : Bool) :
    setKey k.val p s = .ok { s.setKeyFlag k p with kwLatch := if latches s k p then some k else s.kwLatch } := by
  have hcond : (p && !s.key[k.val]'k.isLt && s.kwActive && s.kwLatch.isNone) = true ↔ latches s k p := by
    simp [latches, and_assoc]
  rw [setKey, dif_pos k.isLt]
  by_cases h : latches s k p
  · rw [if_pos (hcond.2 h), if_pos h]; rfl
  · rw [if_neg (mt hcond.1 h), if_neg h]; rfl

/-! ### The obligations -/

/-- Settles O39: the completing branch. -/
theorem waitForKeyCompletes : Obligations.WaitForKeyCompletes := by
  intro x s k ha hl
  obtain ⟨hx, hregs, -, -⟩ := s.advance_setV_spec x (BitVec.ofNat 8 k.val)
  refine ⟨_, exec_waitForKey_of_latchedKey (latchedKey_eq_some_iff.2 ⟨ha, hl⟩), ?_, hregs, rfl, rfl, rfl, rfl⟩
  exact (congrArg BitVec.toNat hx).trans (Nat.mod_eq_of_lt (by omega))

/-- Settles O40: the waiting branch. -/
theorem waitForKeyWaits : Obligations.WaitForKeyWaits := by
  intro x s h
  have hl : latchedKey s = none := latchedKey_eq_none_iff.2 h
  exact ⟨exec_waitForKey_of_latchedKey_none hl, fun hi => hostStep_of_waiting hi hl⟩

/-- Settles O44, by the range of the key number. -/
theorem setKeyFillsLatch : Obligations.SetKeyFillsLatch := by
  refine ⟨fun key p s h => setKey_of_ge h, fun k p s => ?_⟩
  refine ⟨_, setKey_spec s k p, ?_, fun j hj => ?_, fun h => ?_, fun h => ?_, rfl⟩
  · exact (s.setKeyFlag_getElem k k p).trans (if_pos rfl)
  · exact (s.setKeyFlag_getElem k j p).trans (if_neg hj)
  · exact if_pos h
  · exact if_neg h

end Sys2Proof.Machine
end

section
/-! PROOFS. What an instruction that completes may change (spec/10_state.md sections 1 to 3, spec/20_memory.md). -/

namespace Sys2Proof.Machine

open Sys2Proof.Claims

/-! ### The fields an instruction writes -/

/-- From `s` to `t` nothing differs but the fields the instruction writes when it completes. -/
def onlyItsFields (i : Instr) (s t : State) : Prop :=
  match i with
  | .clearScreen => t = { s with fb := t.fb, pc := t.pc }
  | .draw _ _ _ => t = { s with v := t.v, fb := t.fb, pc := t.pc }
  | .ret => t = { s with sp := t.sp, pc := t.pc }
  | .call _ => t = { s with stk := t.stk, sp := t.sp, pc := t.pc }
  | .jump _ | .jumpWithOffset _ | .skipIfEqual _ _ | .skipIfNotEqual _ _ | .skipIfRegsEqual _ _
  | .skipIfRegsNotEqual _ _ | .skipIfKeyPressed _ | .skipIfKeyNotPressed _ => t = { s with pc := t.pc }
  | .setIndex _ | .addToIndex _ | .spriteAddress _ => t = { s with idx := t.idx, pc := t.pc }
  | .storeBcd _ | .storeRegisters _ => t = { s with mem := t.mem, pc := t.pc }
  | .setDelayTimer _ => t = { s with dt := t.dt, pc := t.pc }
  | .setSoundTimer _ => t = { s with st := t.st, pc := t.pc }
  | .waitForKey _ => t = { s with v := t.v, kwActive := t.kwActive, kwLatch := t.kwLatch, pc := t.pc }
  | .randomize _ _ => t = { s with v := t.v, draws := t.draws, pc := t.pc }
  | _ => t = { s with v := t.v, pc := t.pc }

/-- An answer that is a next state under a condition and a fault otherwise is a next state only under the condition. -/
theorem next_of_ite {c : Prop} [Decidable c] {r : Result} {t u : State} {e : Fault}
    (hr : r = if c then .next u else .fault e) (h : r = .next t) : c ∧ t = u := by
  by_cases hc : c
  · rw [hr, if_pos hc] at h
    exact ⟨hc, (Host.Outcome.next.inj h).symm⟩
  · rw [hr, if_neg hc] at h
    cases h

/-- And a fault only without it. -/
theorem fault_of_ite {c : Prop} [Decidable c] {r : Result} {u : State} {e e' : Fault}
    (hr : r = if c then .next u else .fault e) (h : r = .fault e') : ¬c ∧ e' = e := by
  by_cases hc : c
  · rw [hr, if_pos hc] at h
    cases h
  · rw [hr, if_neg hc] at h
    exact ⟨hc, (Host.Outcome.fault.inj h).symm⟩

/-- Everything the two stores can do, said of both at once: with memory alone changed they complete or fail, and on a
canonical memory no byte changes but those stored to. -/
theorem exec_store_spec {i : Instr} {x : Reg} (hi : i = .storeBcd x ∨ i = .storeRegisters x) (s : State) :
    ∃ (m : Memory) (n : Nat),
      (s.mem.wf = true → m.wf = true ∧ ∀ a, ¬storesTo i s a → memRead (s.setMem m) a = memRead s a) ∧
      exec i s = if s.idx.toNat + n < 4096 then .next (s.setMem m).advance
        else .fault (.invalidAddress (max 4096 s.idx.toNat) (s.setMem m)) := by
  obtain rfl | rfl := hi
  · obtain ⟨m, hmem, hexec⟩ := exec_storeBcd_spec x s
    refine ⟨m, 2, fun hm => ?_, hexec⟩
    obtain ⟨hwf, -, hout⟩ := hmem hm
    exact ⟨hwf, fun a ha => hout a (by simp only [storesTo] at ha; omega)⟩
  · obtain ⟨m, hmem, hexec⟩ := exec_storeRegisters_spec x s
    refine ⟨m, x.val, fun hm => ?_, hexec⟩
    obtain ⟨hwf, -, hout⟩ := hmem hm
    exact ⟨hwf, fun a ha => hout a (by simp only [storesTo] at ha; omega)⟩

/-- A store that completes. -/
theorem exec_store_next {i : Instr} {x : Reg} {s t : State} (h : exec i s = .next t)
    (hi : i = .storeBcd x ∨ i = .storeRegisters x) : ∃ m : Memory, t = (s.setMem m).advance ∧
      (s.mem.wf = true → m.wf = true ∧ ∀ a, ¬storesTo i s a → memRead (s.setMem m) a = memRead s a) := by
  obtain ⟨m, n, hmem, hexec⟩ := exec_store_spec hi s
  obtain ⟨-, ht⟩ := next_of_ite hexec h
  exact ⟨m, ht, hmem⟩

/-- A store that fails. -/
theorem exec_store_fault {i : Instr} {x : Reg} {s : State} {e : Fault} (h : exec i s = .fault e)
    (hi : i = .storeBcd x ∨ i = .storeRegisters x) : ∃ m : Memory, e.left = s.setMem m ∧
      (s.mem.wf = true → m.wf = true ∧ ∀ a, ¬storesTo i s a → memRead (s.setMem m) a = memRead s a) := by
  obtain ⟨m, n, hmem, hexec⟩ := exec_store_spec hi s
  obtain ⟨-, rfl⟩ := fault_of_ite hexec h
  exact ⟨m, rfl, hmem⟩

/-- A key skip that completes is a skip. -/
theorem exec_skipIfKey_next {x : Reg} {s t : State}
    (h : exec (.skipIfKeyPressed x) s = .next t ∨ exec (.skipIfKeyNotPressed x) s = .next t) : ∃ c, t = s.skipIf c := by
  cases hk : keyPressed s (s.getV x).toNat with
  | some p =>
    rw [exec_skipIfKeyPressed_of_keyPressed hk, exec_skipIfKeyNotPressed_of_keyPressed hk] at h
    obtain h | h := h
    · exact ⟨p, (Host.Outcome.next.inj h).symm⟩
    · exact ⟨!p, (Host.Outcome.next.inj h).symm⟩
  | none =>
    rw [exec_skipIfKeyPressed_of_keyPressed_none hk, exec_skipIfKeyNotPressed_of_keyPressed_none hk] at h
    obtain h | h := h <;> cases h

/-- `wait-for-key` completes or makes the wait pending. -/
theorem exec_waitForKey_next {x : Reg} {s t : State} (h : exec (.waitForKey x) s = .next t) :
    (∃ k : KeyNum, t = ((s.setV x (BitVec.ofNat 8 k.val)).setKeyWait false none).advance) ∨
      latchedKey s = none ∧ t = { s with kwActive := true } := by
  cases hl : latchedKey s with
  | some k =>
    rw [exec_waitForKey_of_latchedKey hl] at h
    exact .inl ⟨k, (Host.Outcome.next.inj h).symm⟩
  | none =>
    rw [exec_waitForKey_of_latchedKey_none hl] at h
    exact .inr ⟨rfl, (Host.Outcome.next.inj h).symm⟩

/-- A `return` that completes pops its `pc`. -/
theorem exec_ret_next {s t : State} (h : exec .ret s = .next t) :
    t.sp.val + 1 = s.sp.val ∧ (∀ k : Fin 16, k.val + 1 = s.sp.val → t.pc = s.stk[k]) ∧
      t = { s with sp := t.sp, pc := t.pc } := by
  obtain ⟨hpop, hempty⟩ := returnPopsPc s
  obtain hsp | hsp := Nat.eq_zero_or_pos s.sp.val
  · rw [hempty hsp] at h
    cases h
  · obtain ⟨u, hu, hrest⟩ := hpop hsp
    rw [hu] at h
    exact Host.Outcome.next.inj h ▸ hrest

/-- A `call` that completes pushes its return address. -/
theorem exec_call_next {nnn : Addr12} {s t : State} (h : exec (.call nnn) s = .next t) :
    t.pc.toNat = nnn.toNat ∧ t.sp.val = s.sp.val + 1 ∧ (∀ k : Fin 16, k.val = s.sp.val → t.stk[k] = s.pc + 2) ∧
      (∀ k : Fin 16, k.val ≠ s.sp.val → t.stk[k] = s.stk[k]) ∧ t = { s with stk := t.stk, sp := t.sp, pc := t.pc } := by
  obtain ⟨hpush, hfull⟩ := callPushesReturnAddress nnn s
  obtain hsp | hsp := Nat.lt_or_ge s.sp.val 16
  · obtain ⟨u, hu, hrest⟩ := hpush hsp
    rw [hu] at h
    exact Host.Outcome.next.inj h ▸ hrest
  · rw [hfull (by omega)] at h
    cases h

/-- An instruction that completes changes nothing but its fields. -/
theorem exec_next_onlyItsFields {i : Instr} {s t : State} (h : exec i s = .next t) : onlyItsFields i s t := by
  cases i
  case ret =>
    obtain ⟨-, -, hframe⟩ := exec_ret_next h
    exact hframe
  case call nnn =>
    obtain ⟨-, -, -, -, hframe⟩ := exec_call_next h
    exact hframe
  case draw x y n =>
    obtain ⟨-, rfl⟩ := next_of_ite (exec_draw_spec x y n s) h
    rfl
  case skipIfKeyPressed x =>
    obtain ⟨c, rfl⟩ := exec_skipIfKey_next (.inl h)
    rfl
  case skipIfKeyNotPressed x =>
    obtain ⟨c, rfl⟩ := exec_skipIfKey_next (.inr h)
    rfl
  case waitForKey x =>
    obtain ⟨k, rfl⟩ | ⟨-, rfl⟩ := exec_waitForKey_next h <;> rfl
  case storeBcd x | storeRegisters x =>
    obtain ⟨m, rfl, -⟩ := exec_store_next (x := x) h (by simp)
    rfl
  case loadRegisters x =>
    obtain ⟨f, -, -, hexec⟩ := exec_loadRegisters_spec x s
    obtain ⟨-, rfl⟩ := next_of_ite hexec h
    rfl
  all_goals
    obtain rfl := Host.Outcome.next.inj h
    rfl

/-! ### Each field by the instructions that write it -/

section Fields

variable {i : Instr} {s t : State} (h : exec i s = .next t)
include h

theorem exec_next_fb (h1 : i ≠ .clearScreen) (h2 : ∀ x y n, i ≠ .draw x y n) : t.fb = s.fb := by
  have hf := exec_next_onlyItsFields h
  cases i
  case clearScreen => exact absurd rfl h1
  case draw x y n => exact absurd rfl (h2 x y n)
  all_goals exact (congrArg State.fb hf :)

theorem exec_next_idx (h1 : ∀ nnn, i ≠ .setIndex nnn) (h2 : ∀ x, i ≠ .addToIndex x) (h3 : ∀ x, i ≠ .spriteAddress x) :
    t.idx = s.idx := by
  have hf := exec_next_onlyItsFields h
  cases i
  case setIndex nnn => exact absurd rfl (h1 nnn)
  case addToIndex x => exact absurd rfl (h2 x)
  case spriteAddress x => exact absurd rfl (h3 x)
  all_goals exact (congrArg State.idx hf :)

theorem exec_next_sp_stk (h1 : i ≠ .ret) (h2 : ∀ nnn, i ≠ .call nnn) : t.sp = s.sp ∧ t.stk = s.stk := by
  have hf := exec_next_onlyItsFields h
  cases i
  case ret => exact absurd rfl h1
  case call nnn => exact absurd rfl (h2 nnn)
  all_goals exact ⟨(congrArg State.sp hf :), (congrArg State.stk hf :)⟩

theorem exec_next_dt (h1 : ∀ x, i ≠ .setDelayTimer x) : t.dt = s.dt := by
  have hf := exec_next_onlyItsFields h
  cases i
  case setDelayTimer x => exact absurd rfl (h1 x)
  all_goals exact (congrArg State.dt hf :)

theorem exec_next_st (h1 : ∀ x, i ≠ .setSoundTimer x) : t.st = s.st := by
  have hf := exec_next_onlyItsFields h
  cases i
  case setSoundTimer x => exact absurd rfl (h1 x)
  all_goals exact (congrArg State.st hf :)

theorem exec_next_keyWait (h1 : ∀ x, i ≠ .waitForKey x) : t.kwActive = s.kwActive ∧ t.kwLatch = s.kwLatch := by
  have hf := exec_next_onlyItsFields h
  cases i
  case waitForKey x => exact absurd rfl (h1 x)
  all_goals exact ⟨(congrArg State.kwActive hf :), (congrArg State.kwLatch hf :)⟩

theorem exec_next_draws (h1 : ∀ x kk, i ≠ .randomize x kk) : t.draws = s.draws := by
  have hf := exec_next_onlyItsFields h
  cases i
  case randomize x kk => exact absurd rfl (h1 x kk)
  all_goals exact (congrArg State.draws hf :)

theorem exec_next_key_cfg : t.key = s.key ∧ t.cfg = s.cfg := by
  have hf := exec_next_onlyItsFields h
  cases i
  all_goals exact ⟨(congrArg State.key hf :), (congrArg State.cfg hf :)⟩

/-- Memory keeps its canonical form, and no byte changes but those stored to. -/
theorem exec_next_mem (hm : s.mem.wf = true) :
    t.mem.wf = true ∧ ∀ a, ¬storesTo i s a → memRead t a = memRead s a := by
  have hf := exec_next_onlyItsFields h
  cases i
  case storeBcd x | storeRegisters x =>
    obtain ⟨m, rfl, hmem⟩ := exec_store_next (x := x) h (by simp)
    exact hmem hm
  all_goals
    have hmem : t.mem = s.mem := (congrArg State.mem hf :)
    exact ⟨hmem ▸ hm, fun a _ => memRead_congr hmem a⟩

/-- No general register changes but those the instruction names as destination. -/
theorem exec_next_regs {r : Reg} (hr : ¬writesReg i r) : t.v[r] = s.v[r] := by
  have hf := exec_next_onlyItsFields h
  cases i
  case loadImmediate | addImmediate | copy | or | and | xor | randomize | readDelayTimer =>
    obtain rfl := Host.Outcome.next.inj h
    exact (State.getV_setV _ _ r _).trans (if_neg hr)
  case add | sub | shiftRight | subReverse | shiftLeft =>
    obtain rfl := Host.Outcome.next.inj h
    obtain ⟨hx, hF⟩ := not_or.1 hr
    exact (s.getV_setResultFlag _ r _ _).trans ((if_neg hF).trans (if_neg hx))
  case draw x y n =>
    obtain ⟨-, rfl⟩ := next_of_ite (exec_draw_spec x y n s) h
    exact s.drawn_regsEqBut x y n.val r hr
  case waitForKey x =>
    obtain ⟨k, rfl⟩ | ⟨-, rfl⟩ := exec_waitForKey_next h
    · exact (s.getV_setV x r _).trans (if_neg hr)
    · rfl
  case loadRegisters x =>
    obtain ⟨f, -, hout, hexec⟩ := exec_loadRegisters_spec x s
    obtain ⟨-, rfl⟩ := next_of_ite hexec h
    exact hout r (.inr (Nat.lt_of_not_le hr))
  all_goals exact (congrArg (fun u : State => u.v[r]) hf :)

end Fields

/-! ### The obligations -/

/-- Settles O51: each field by the instructions that write it. -/
theorem stateElementsHaveTheirWriters : Obligations.StateElementsHaveTheirWriters := by
  intro i s t hm h
  obtain ⟨-, hmem⟩ := exec_next_mem h hm
  exact ⟨exec_next_fb h, exec_next_idx h, exec_next_sp_stk h, exec_next_dt h, exec_next_st h, exec_next_keyWait h, hmem,
    exec_next_draws h, exec_next_key_cfg h⟩

/-- Settles O52, by the registers each instruction names as destination. -/
theorem registersHaveTheirWriters : Obligations.RegistersHaveTheirWriters := fun _ _ _ _ h hr => exec_next_regs h hr

end Sys2Proof.Machine
end

section
/-! PROOFS. When a step fails, with what, and what it leaves (spec/60_exceptions.md sections 1 to 3). -/

namespace Sys2Proof.Machine

open Sys2Proof.Claims

/-! ### An answer that fails exactly with a given error -/

/-- The answer is a next state when no error is given, and a fault of the given kind otherwise. -/
def failsExactlyWith (r : Result) (err : Option ErrorKind) : Prop :=
  (err = none → ∃ t, r = .next t) ∧ ∀ k, err = some k → ∃ e, r = .fault e ∧ e.kind = k

theorem failsExactlyWith_none_of_next {r : Result} {t : State} (h : r = .next t) : failsExactlyWith r none :=
  ⟨fun _ => ⟨t, h⟩, fun k hk => by cases hk⟩

theorem failsExactlyWith_some_of_fault {r : Result} {e : Fault} (h : r = .fault e) : failsExactlyWith r (some e.kind) :=
  ⟨fun hn => (by cases hn), fun _ hk => ⟨e, h, Option.some.inj hk⟩⟩

theorem failsExactlyWith_ite {c : Prop} [Decidable c] {r : Result} {k : ErrorKind}
    (hfail : c → ∃ e, r = .fault e ∧ e.kind = k) (hok : ¬c → ∃ t, r = .next t) :
    failsExactlyWith r (if c then some k else none) := by
  by_cases hc : c
  · obtain ⟨e, he, rfl⟩ := hfail hc
    rw [if_pos hc]
    exact failsExactlyWith_some_of_fault he
  · obtain ⟨t, ht⟩ := hok hc
    rw [if_neg hc]
    exact failsExactlyWith_none_of_next ht

/-- The error of a fault is the expected one. -/
theorem failsExactlyWith_fault {e : Fault} {err : Option ErrorKind} (h : failsExactlyWith (.fault e) err) :
    err = some e.kind := by
  obtain ⟨hnone, hsome⟩ := h
  cases err with
  | none =>
    obtain ⟨t, ht⟩ := hnone rfl
    cases ht
  | some k =>
    obtain ⟨e', he, rfl⟩ := hsome k rfl
    rw [Host.Outcome.fault.inj he]

/-! ### The instruction -/

/-- A key skip fails exactly on a register value that is no key number (R82). -/
theorem exec_skipIfKey_fails (x : Reg) (s : State) :
    failsExactlyWith (exec (.skipIfKeyPressed x) s) (expectedError (.skipIfKeyPressed x) s) ∧
      failsExactlyWith (exec (.skipIfKeyNotPressed x) s) (expectedError (.skipIfKeyNotPressed x) s) := by
  obtain ⟨hkey, hno⟩ := keySkipsFollowLevel x s
  refine ⟨failsExactlyWith_ite (fun h => ⟨_, (hno h).1, rfl⟩) fun h => ?_,
    failsExactlyWith_ite (fun h => ⟨_, (hno h).2, rfl⟩) fun h => ?_⟩
  · exact ⟨_, (hkey ⟨s.v[x].toNat, by omega⟩ rfl).1⟩
  · exact ⟨_, (hkey ⟨s.v[x].toNat, by omega⟩ rfl).2⟩

/-- Every instruction fails exactly for the causes R97 lists, and none is refused. -/
theorem exec_failsExactlyWith_expectedError (i : Instr) (s : State) :
    failsExactlyWith (exec i s) (expectedError i s) := by
  cases i
  case ret =>
    obtain ⟨hpop, hempty⟩ := returnPopsPc s
    refine failsExactlyWith_ite (fun h => ⟨_, hempty h, rfl⟩) fun h => ?_
    obtain ⟨t, ht, -⟩ := hpop (Nat.pos_of_ne_zero h)
    exact ⟨t, ht⟩
  case call nnn =>
    obtain ⟨hpush, hfull⟩ := callPushesReturnAddress nnn s
    refine failsExactlyWith_ite (fun h => ⟨_, hfull h, rfl⟩) fun h => ?_
    obtain ⟨t, ht, -⟩ := hpush (by omega)
    exact ⟨t, ht⟩
  case draw x y n =>
    have hexec := exec_draw_spec x y n s
    exact failsExactlyWith_ite (fun h => ⟨_, hexec.trans (if_neg (by omega)), rfl⟩)
      fun h => ⟨_, hexec.trans (if_pos (by omega))⟩
  case skipIfKeyPressed x => exact (exec_skipIfKey_fails x s).1
  case skipIfKeyNotPressed x => exact (exec_skipIfKey_fails x s).2
  case waitForKey x =>
    cases hl : latchedKey s with
    | some k => exact failsExactlyWith_none_of_next (exec_waitForKey_of_latchedKey hl)
    | none => exact failsExactlyWith_none_of_next (exec_waitForKey_of_latchedKey_none hl)
  case storeBcd x =>
    obtain ⟨m, -, hexec⟩ := exec_storeBcd_spec x s
    exact failsExactlyWith_ite (fun h => ⟨_, hexec.trans (if_neg (Nat.not_lt.2 h)), rfl⟩)
      fun h => ⟨_, hexec.trans (if_pos (Nat.lt_of_not_le h))⟩
  case storeRegisters x =>
    obtain ⟨m, -, hexec⟩ := exec_storeRegisters_spec x s
    exact failsExactlyWith_ite (fun h => ⟨_, hexec.trans (if_neg (Nat.not_lt.2 h)), rfl⟩)
      fun h => ⟨_, hexec.trans (if_pos (Nat.lt_of_not_le h))⟩
  case loadRegisters x =>
    obtain ⟨f, -, -, hexec⟩ := exec_loadRegisters_spec x s
    exact failsExactlyWith_ite (fun h => ⟨_, hexec.trans (if_neg (Nat.not_lt.2 h)), rfl⟩)
      fun h => ⟨_, hexec.trans (if_pos (Nat.lt_of_not_le h))⟩
  all_goals exact failsExactlyWith_none_of_next rfl

/-- So every instruction answers a next state or a fault. -/
theorem exec_ne_refused (i : Instr) (s : State) (q : Refusal) : exec i s ≠ .refused q := by
  intro h
  obtain ⟨hnone, hsome⟩ := exec_failsExactlyWith_expectedError i s
  cases he : expectedError i s with
  | none =>
    obtain ⟨t, ht⟩ := hnone he
    rw [h] at ht
    cases ht
  | some k =>
    obtain ⟨e, hfault, -⟩ := hsome k he
    rw [h] at hfault
    cases hfault

/-! ### What a failing instruction leaves -/

/-- What a failing instruction may have changed (R99): memory in a store, registers in the load, nothing otherwise. -/
def onlyItsLeftovers (i : Instr) (s t : State) : Prop :=
  match i with
  | .storeBcd _ | .storeRegisters _ => t = { s with mem := t.mem }
  | .loadRegisters _ => t = { s with v := t.v }
  | _ => t = s

/-- A key skip that fails changes nothing. -/
theorem exec_skipIfKey_fault {x : Reg} {s : State} {e : Fault}
    (h : exec (.skipIfKeyPressed x) s = .fault e ∨ exec (.skipIfKeyNotPressed x) s = .fault e) : e.left = s := by
  cases hk : keyPressed s (s.getV x).toNat with
  | some p =>
    rw [exec_skipIfKeyPressed_of_keyPressed hk, exec_skipIfKeyNotPressed_of_keyPressed hk] at h
    obtain h | h := h <;> cases h
  | none =>
    rw [exec_skipIfKeyPressed_of_keyPressed_none hk, exec_skipIfKeyNotPressed_of_keyPressed_none hk] at h
    obtain h | h := h <;> cases h <;> rfl

/-- A failing instruction changes nothing but its leftovers. -/
theorem exec_fault_onlyItsLeftovers {i : Instr} {s : State} {e : Fault} (h : exec i s = .fault e) :
    onlyItsLeftovers i s e.left := by
  cases i
  case ret =>
    obtain ⟨hpop, hempty⟩ := returnPopsPc s
    obtain hsp | hsp := Nat.eq_zero_or_pos s.sp.val
    · obtain rfl := Host.Outcome.fault.inj ((hempty hsp).symm.trans h)
      rfl
    · obtain ⟨t, ht, -⟩ := hpop hsp
      cases ht.symm.trans h
  case call nnn =>
    obtain ⟨hpush, hfull⟩ := callPushesReturnAddress nnn s
    obtain hsp | hsp := Nat.lt_or_ge s.sp.val 16
    · obtain ⟨t, ht, -⟩ := hpush hsp
      cases ht.symm.trans h
    · obtain rfl := Host.Outcome.fault.inj ((hfull (by omega)).symm.trans h)
      rfl
  case draw x y n =>
    obtain ⟨-, rfl⟩ := fault_of_ite (exec_draw_spec x y n s) h
    rfl
  case skipIfKeyPressed x => exact exec_skipIfKey_fault (.inl h)
  case skipIfKeyNotPressed x => exact exec_skipIfKey_fault (.inr h)
  case waitForKey x =>
    cases hl : latchedKey s with
    | some k => cases (exec_waitForKey_of_latchedKey hl).symm.trans h
    | none => cases (exec_waitForKey_of_latchedKey_none hl).symm.trans h
  case storeBcd x | storeRegisters x =>
    obtain ⟨m, hleft, -⟩ := exec_store_fault (x := x) h (by simp)
    exact hleft ▸ rfl
  case loadRegisters x =>
    obtain ⟨f, -, -, hexec⟩ := exec_loadRegisters_spec x s
    obtain ⟨-, rfl⟩ := fault_of_ite hexec h
    rfl
  all_goals cases h

section Leftovers

variable {i : Instr} {s : State} {e : Fault} (h : exec i s = .fault e)
include h

/-- Only general registers and memory may differ. -/
theorem exec_fault_frame : e.left = { s with v := e.left.v, mem := e.left.mem } := by
  have hl := exec_fault_onlyItsLeftovers h
  cases i
  case storeBcd | storeRegisters | loadRegisters => exact hl.trans (by rw [hl])
  all_goals exact hl.trans (by rw [show e.left = s from hl])

/-- Memory keeps its canonical form, and no byte changes but those stored to. -/
theorem exec_fault_mem (hm : s.mem.wf = true) :
    e.left.mem.wf = true ∧ ∀ a, ¬storesTo i s a → memRead e.left a = memRead s a := by
  have hl := exec_fault_onlyItsLeftovers h
  cases i
  case storeBcd x | storeRegisters x =>
    obtain ⟨m, hleft, hmem⟩ := exec_store_fault (x := x) h (by simp)
    exact hleft ▸ hmem hm
  all_goals
    have hmem : e.left.mem = s.mem := (congrArg State.mem hl :)
    exact ⟨hmem ▸ hm, fun a _ => memRead_congr hmem a⟩

/-- The error expected is that of the fault, and it is expected of the state left too. -/
theorem expectedError_left : expectedError i e.left = some e.kind := by
  have hl := exec_fault_onlyItsLeftovers h
  have herr := failsExactlyWith_fault (h ▸ exec_failsExactlyWith_expectedError i s)
  have hidx : e.left.idx = s.idx := (congrArg State.idx (exec_fault_frame h) :)
  cases i
  case storeBcd | storeRegisters | loadRegisters => rw [← herr, expectedError, expectedError, hidx]
  all_goals rw [← herr, show e.left = s from hl]

end Leftovers

/-! ### The step -/

/-- A step fails in its instruction, or before it with the state unchanged. -/
theorem step_fault {s : State} {e : Fault} (h : step s = .fault e) :
    (∃ i, fetchInstr s = .ok i ∧ exec i s = .fault e) ∨ (∀ i, fetchInstr s ≠ .ok i) ∧ e.left = s := by
  cases hf : fetchInstr s with
  | ok i => exact .inl ⟨i, rfl, (step_of_fetchInstr hf).symm.trans h⟩
  | error mk =>
    refine .inr ⟨fun i hi => (by cases hi), ?_⟩
    obtain ⟨i, hi, -⟩ | ⟨-, hs⟩ | ⟨w, -, -, hs⟩ := step_cases s
    · rw [hf] at hi
      cases hi
    · obtain rfl := Host.Outcome.fault.inj (hs.symm.trans h)
      rfl
    · obtain rfl := Host.Outcome.fault.inj (hs.symm.trans h)
      rfl

/-! ### The obligations -/

/-- Settles O10: the fetch by the range of `pc`, the decode by its answer, the instruction by
`exec_failsExactlyWith_expectedError`. -/
theorem stepErrorsExactly : Obligations.StepErrorsExactly := by
  intro s
  show failsExactlyWith (step s) (expectedStepError s)
  by_cases hpc : 0x0FFF ≤ s.pc.toNat
  · rw [expectedStepError, if_pos hpc]
    exact failsExactlyWith_some_of_fault (step_of_pc_ge (Nat.succ_le_succ hpc))
  · have hf : fetch s = .ok (wordOfBytes (s.mem.read s.pc.toNat) (s.mem.read (s.pc.toNat + 1))) :=
      (fetch_spec s).trans (if_pos (show s.pc.toNat + 1 < 4096 by omega))
    rw [expectedStepError, if_neg hpc]
    cases hd : decodeWord (wordOfBytes (s.mem.read s.pc.toNat) (s.mem.read (s.pc.toNat + 1))) with
    | ok i =>
      rw [step_of_fetchInstr (fetchInstr_ok.2 ⟨_, hf, hd⟩)]
      exact exec_failsExactlyWith_expectedError i s
    | error r =>
      obtain rfl := decodeWord_error hd
      exact failsExactlyWith_some_of_fault (step_of_undefined hf hd)

/-- Settles O53: an instruction leaves only its leftovers, a failing fetch or decode leaves the state as it was. -/
theorem failedStepLeftovers : Obligations.FailedStepLeftovers := by
  intro s e h
  obtain ⟨i, hi, hexec⟩ | ⟨hno, hleft⟩ := step_fault h
  · have hl := exec_fault_onlyItsLeftovers hexec
    have hsame : ∀ j, fetchInstr s = .ok j → j = i := fun j hj => Except.ok.inj (hj.symm.trans hi)
    refine ⟨(congrArg State.pc (exec_fault_frame hexec) :), fun hm j hj a ha => ?_, fun x hx r hr => ?_, fun hs => ?_,
      fun ⟨x, hx⟩ => ?_, fun hs hload => ?_⟩
    · obtain ⟨-, hmem⟩ := exec_fault_mem hexec hm
      exact hmem a (hsame j hj ▸ ha)
    · obtain rfl := hsame _ hx
      obtain ⟨f, -, hout, hspec⟩ := exec_loadRegisters_spec x s
      obtain ⟨-, rfl⟩ := fault_of_ite hspec hexec
      exact hout r hr
    · obtain ⟨x, hx⟩ | ⟨x, hx⟩ := hs
      · obtain rfl := hsame _ hx
        exact hl
      · obtain rfl := hsame _ hx
        exact hl
    · obtain rfl := hsame _ hx
      exact hl
    · cases i
      case storeBcd x => exact absurd (.inl ⟨x, hi⟩) hs
      case storeRegisters x => exact absurd (.inr ⟨x, hi⟩) hs
      case loadRegisters x => exact absurd hi (hload x)
      all_goals exact hl
  · rw [hleft]
    exact ⟨rfl, fun _ _ _ _ _ => rfl, fun _ _ _ _ => rfl, fun _ => rfl, fun _ => rfl, fun _ _ => rfl⟩

/-- Settles O54: the same instruction is fetched from the state left, and its error is expected there too. -/
theorem failedStepFailsAgain : Obligations.FailedStepFailsAgain := by
  intro s e h hcond
  obtain ⟨i, hi, hexec⟩ | ⟨-, hleft⟩ := step_fault h
  · have hpc : e.left.pc = s.pc := (congrArg State.pc (exec_fault_frame hexec) :)
    have hfetch : fetch e.left = fetch s := by
      refine hcond.elim (fun hs => fetch_congr hpc ?_) id
      have hl := exec_fault_onlyItsLeftovers hexec
      cases i
      case storeBcd x => exact absurd (.inl ⟨x, hi⟩) hs
      case storeRegisters x => exact absurd (.inr ⟨x, hi⟩) hs
      all_goals exact (congrArg State.mem hl :)
    obtain ⟨-, hagain⟩ := exec_failsExactlyWith_expectedError i e.left
    rw [step_of_fetchInstr ((fetchInstr_congr hfetch).trans hi)]
    exact hagain e.kind (expectedError_left hexec)
  · exact ⟨e, by rw [hleft]; exact h, rfl⟩

end Sys2Proof.Machine
end

section
/-! PROOFS. The reset and the machine's invariant over one step (spec/10_state.md sections 2 to 4,
spec/45_host_operations.md rule R89, spec/44_input_timers.md rule R86). -/

namespace Sys2Proof.Machine

open Sys2Proof.Claims

/-! ### `new` (R89) -/

/-- The bounds of R6 as numbers. -/
theorem Config.wf_iff {cfg : Config} :
    cfg.wf = true ↔ cfg.fontBase ≤ 0x1B0 ∧ cfg.fontImage.length ≤ 0x200 - cfg.fontBase := by
  simp [Config.wf]

theorem newMachine_of_fits {cfg : Config} {bytes : List Byte} (h : bytes.length ≤ 3584) :
    newMachine cfg bytes = .ok { State.reset with mem := imageMemory cfg bytes, cfg := cfg } :=
  if_pos (decide_eq_true h)

theorem newMachine_of_not_fits {cfg : Config} {bytes : List Byte} (h : 3584 < bytes.length) :
    newMachine cfg bytes = .error .romTooLarge :=
  if_neg fun hf => absurd (of_decide_eq_true hf) (Nat.not_le.2 h)

/-- The memory `new` builds is in canonical form. -/
theorem imageMemory_wf (cfg : Config) (bytes : List Byte) : (imageMemory cfg bytes).wf = true :=
  Memory.wf_place (Memory.wf_place rfl _ _) _ _

/-- Every byte of the memory `new` builds with well-formed parameters: the image, then the font, then 0x00. -/
theorem imageMemory_read {cfg : Config} {bytes : List Byte} (hcfg : cfg.wf = true) (h : bytes.length ≤ 3584) (a : Nat) :
    (imageMemory cfg bytes).read a =
      if 0x200 ≤ a then bytes[a - 0x200]?.getD 0x00#8
      else if cfg.fontBase ≤ a then cfg.fontImage[a - cfg.fontBase]?.getD 0x00#8 else 0x00#8 := by
  obtain ⟨hbase, hfont⟩ := Config.wf_iff.1 hcfg
  have hfontRead := Memory.read_place (m := []) rfl (a := cfg.fontBase) (bs := cfg.fontImage)
    (show cfg.fontBase + cfg.fontImage.length ≤ 4096 by omega)
  rw [imageMemory, Memory.read_place (Memory.wf_place rfl _ _) (show 0x200 + bytes.length ≤ 4096 by omega), hfontRead]
  by_cases ha : 0x200 ≤ a
  · have hafter : cfg.fontImage[a - cfg.fontBase]? = none := List.getElem?_eq_none (by omega)
    rw [if_pos ha, if_pos ha, if_pos (by omega), hafter]
    rfl
  · rw [if_neg ha, if_neg ha]
    rfl

/-- Settles O47: the image and the font where they are placed, the rest as at reset. -/
theorem newBuildsResetState : Obligations.NewBuildsResetState := by
  refine ⟨fun cfg bytes h => newMachine_of_not_fits h, fun cfg bytes hcfg h => ?_, rfl⟩
  have hread := imageMemory_read hcfg h
  have hmem : ∀ a < 4096, memRead { State.reset with mem := imageMemory cfg bytes, cfg := cfg } a =
      some ((imageMemory cfg bytes).read a) := fun a ha => memRead_of_lt ha
  obtain ⟨hbase, hfont⟩ := Config.wf_iff.1 hcfg
  refine ⟨_, newMachine_of_fits h, fun k b hk => ?_, fun k b hk => ?_, fun a ha himage hfontOut => ?_, fun r => ?_, rfl,
    rfl, rfl, fun k => ?_, rfl, rfl, pixelAt_displayClear, fun k => ?_, rfl, rfl, rfl⟩
  · obtain ⟨hlt, -⟩ := List.getElem?_eq_some_iff.1 hk
    rw [hmem _ (by omega), hread, if_pos (by omega), Nat.add_sub_cancel_left, hk]
    rfl
  · obtain ⟨hlt, -⟩ := List.getElem?_eq_some_iff.1 hk
    rw [hmem _ (by omega), hread, if_neg (by omega), if_pos (by omega), Nat.add_sub_cancel_left, hk]
    rfl
  · rw [hmem a ha, hread]
    by_cases h200 : 0x200 ≤ a
    · rw [if_pos h200, List.getElem?_eq_none (by omega)]
      rfl
    · rw [if_neg h200]
      by_cases hb : cfg.fontBase ≤ a
      · rw [if_pos hb, List.getElem?_eq_none (by omega)]
        rfl
      · rw [if_neg hb]
  · simp [State.reset]
  · simp [State.reset]
  · simp [State.reset]

/-- Settles O48: at reset no entry is live and no wait is pending, and `new` differs in a canonical memory only. -/
theorem invariantAtReset : Obligations.InvariantAtReset := by
  have hreset : State.inv State.reset := by decide
  refine ⟨hreset, fun cfg bytes s _ hnew => ?_⟩
  obtain ⟨-, hpc, hlive, hlatch, -⟩ := hreset
  unfold newMachine at hnew
  split at hnew
  · obtain rfl := Except.ok.inj hnew
    exact ⟨imageMemory_wf cfg bytes, hpc, hlive, hlatch, fun hw => (by cases hw)⟩
  · cases hnew

/-! ### `pc` and the live return addresses after an instruction -/

/-- Every value an instruction can write to `pc` (R48 to R56, R86). -/
inductive NextPc (s : State) (w : Word) : Prop
  | stays (h : w = s.pc)
  | advances (h : w = s.pc + 2#16)
  | skips (h : w = s.pc + 4#16)
  | jumps (h : w.toNat ≤ 0xFFF + 0xFF)
  | returns (k : Fin 16) (hk : k.val < s.sp.val) (h : w = s.stk[k])

theorem nextPc_skipIf (s : State) (c : Bool) : NextPc s (s.skipIf c).pc := by
  cases c
  · exact .advances rfl
  · exact .skips rfl

section Next

variable {i : Instr} {s t : State} (h : exec i s = .next t)
include h

theorem exec_next_nextPc : NextPc s t.pc := by
  cases i
  case ret =>
    obtain ⟨hsp, hpc, -⟩ := exec_ret_next h
    exact .returns ⟨t.sp.val, by omega⟩ (Nat.lt_of_succ_le (Nat.le_of_eq hsp)) (hpc _ hsp)
  case call nnn =>
    obtain ⟨hpc, -⟩ := exec_call_next h
    exact .jumps (by omega)
  case jump nnn =>
    obtain ⟨u, hu, hpc, -⟩ := jumpSetsPc nnn s
    obtain rfl := Host.Outcome.next.inj (hu.symm.trans h)
    exact .jumps (by omega)
  case jumpWithOffset nnn =>
    obtain ⟨u, hu, hpc, -⟩ := jumpWithOffsetIsExact nnn s
    obtain rfl := Host.Outcome.next.inj (hu.symm.trans h)
    exact .jumps (by omega)
  case skipIfEqual | skipIfNotEqual | skipIfRegsEqual | skipIfRegsNotEqual =>
    obtain rfl := Host.Outcome.next.inj h
    exact nextPc_skipIf s _
  case skipIfKeyPressed x =>
    obtain ⟨c, rfl⟩ := exec_skipIfKey_next (.inl h)
    exact nextPc_skipIf s c
  case skipIfKeyNotPressed x =>
    obtain ⟨c, rfl⟩ := exec_skipIfKey_next (.inr h)
    exact nextPc_skipIf s c
  case waitForKey x =>
    obtain ⟨k, rfl⟩ | ⟨-, rfl⟩ := exec_waitForKey_next h
    · exact .advances rfl
    · exact .stays rfl
  case draw x y n =>
    obtain ⟨-, rfl⟩ := next_of_ite (exec_draw_spec x y n s) h
    exact .advances rfl
  case storeBcd x | storeRegisters x =>
    obtain ⟨m, rfl, -⟩ := exec_store_next (x := x) h (by simp)
    exact .advances rfl
  case loadRegisters x =>
    obtain ⟨f, -, -, hexec⟩ := exec_loadRegisters_spec x s
    obtain ⟨-, rfl⟩ := next_of_ite hexec h
    exact .advances rfl
  all_goals
    obtain rfl := Host.Outcome.next.inj h
    exact .advances rfl

/-- `pc` stays in range when a word could be fetched at it and the live return addresses are in range. -/
theorem exec_next_pc_le (hpc : s.pc.toNat + 1 < 4096) (hlive : liveReturnsInRange s) : t.pc.toNat ≤ pcMax := by
  cases exec_next_nextPc h with
  | stays ht =>
    rw [ht]
    exact show s.pc.toNat ≤ 0x10FE by omega
  | advances ht =>
    rw [ht, BitVec.toNat_add]
    exact Nat.le_trans (Nat.mod_le _ _) (show s.pc.toNat + 2 ≤ 0x10FE by omega)
  | skips ht =>
    rw [ht, BitVec.toNat_add]
    exact Nat.le_trans (Nat.mod_le _ _) (show s.pc.toNat + 4 ≤ 0x10FE by omega)
  | jumps ht => exact ht
  | returns k hk ht =>
    rw [ht]
    exact Nat.le_trans (hlive k hk) (by decide)

/-- A `call` pushes an address in range, a `return` only makes entries dead, and no other instruction touches the
stack. -/
theorem exec_next_liveReturns (hpc : s.pc.toNat + 1 < 4096) (hlive : liveReturnsInRange s) : liveReturnsInRange t := by
  intro k hk
  by_cases hret : i = .ret
  · subst hret
    obtain ⟨hsp, -, hframe⟩ := exec_ret_next h
    have hstk : t.stk = s.stk := (congrArg State.stk hframe :)
    rw [hstk]
    exact hlive k (by omega)
  by_cases hcall : ∃ nnn, i = .call nnn
  · obtain ⟨nnn, rfl⟩ := hcall
    obtain ⟨-, hsp, hpushed, hold, -⟩ := exec_call_next h
    by_cases hk' : k.val = s.sp.val
    · rw [hpushed k hk', BitVec.toNat_add]
      exact Nat.le_trans (Nat.mod_le _ _) (show s.pc.toNat + 2 ≤ 0x1000 by omega)
    · rw [hold k hk']
      exact hlive k (by omega)
  · obtain ⟨hsp, hstk⟩ := exec_next_sp_stk h hret fun nnn hi => hcall ⟨nnn, hi⟩
    rw [hstk]
    exact hlive k (hsp ▸ hk)

end Next

/-! ### The invariant -/

/-- During a wait the fetched instruction is a `wait-for-key`, so before any other no wait is pending and no key is
latched. -/
theorem keyWait_of_inv {s : State} {i : Instr} (hinv : State.inv s) (hi : fetchInstr s = .ok i)
    (hno : ∀ x, i ≠ .waitForKey x) : s.kwActive = false ∧ s.kwLatch = none := by
  obtain ⟨-, -, -, hlatch, hwait⟩ := hinv
  have hactive : s.kwActive = false := Bool.eq_false_iff.2 fun ha => by
    obtain ⟨x, hx⟩ := waitAtPc_iff.1 (hwait ha)
    exact hno x (Except.ok.inj (hi.symm.trans hx))
  refine ⟨hactive, by_contra fun hl => ?_⟩
  rw [hlatch hl] at hactive
  cases hactive

/-- Settles O49: a `wait-for-key` ends its wait or waits on at the same instruction, any other instruction runs with no
wait pending, and the rest is kept clause by clause. -/
theorem stepKeepsInvariant : Obligations.StepKeepsInvariant := by
  intro s t hinv hstep
  obtain ⟨i, hi, h⟩ := step_next hstep
  obtain ⟨w, hfetch, -⟩ := fetchInstr_ok.1 hi
  have hpc := pc_of_fetch hfetch
  have ⟨hm, _, hlive, _, _⟩ := hinv
  obtain ⟨hwf, -⟩ := exec_next_mem h hm
  refine ⟨hwf, exec_next_pc_le h hpc hlive, exec_next_liveReturns h hpc hlive, ?_⟩
  by_cases hwait : ∃ x, i = .waitForKey x
  · obtain ⟨x, rfl⟩ := hwait
    obtain ⟨k, rfl⟩ | ⟨-, rfl⟩ := exec_waitForKey_next h
    · exact ⟨fun hl => absurd rfl hl, fun ha => (by cases ha)⟩
    · exact ⟨fun _ => rfl, fun _ => waitAtPc_iff.2 ⟨x, (fetchInstr_of_pc_mem rfl rfl).trans hi⟩⟩
  · have hno : ∀ x, i ≠ .waitForKey x := fun x hx => hwait ⟨x, hx⟩
    obtain ⟨hactive, hlatch⟩ := keyWait_of_inv hinv hi hno
    obtain ⟨hactive', hlatch'⟩ := exec_next_keyWait h hno
    rw [hactive', hlatch', hactive, hlatch]
    exact ⟨fun hl => absurd rfl hl, fun ha => (by cases ha)⟩

/-- A failing step keeps the invariant and the parameters: it leaves `pc`, the stack and the wait, and no wait is
pending, since `wait-for-key` does not fail. -/
theorem inv_of_step_fault {s : State} {e : Fault} (hinv : State.inv s) (h : step s = .fault e) :
    State.inv e.left ∧ e.left.cfg = s.cfg := by
  obtain ⟨i, hi, hexec⟩ | ⟨-, hleft⟩ := step_fault h
  · have hno : ∀ x, i ≠ .waitForKey x := by
      rintro x rfl
      cases failsExactlyWith_fault (hexec ▸ exec_failsExactlyWith_expectedError (.waitForKey x) s)
    obtain ⟨hactive, hlatch⟩ := keyWait_of_inv hinv hi hno
    obtain ⟨hm, hpc, hlive, -, -⟩ := hinv
    obtain ⟨hwf, -⟩ := exec_fault_mem hexec hm
    rw [exec_fault_frame hexec]
    exact ⟨⟨hwf, hpc, hlive, fun hl => absurd hlatch hl, fun ha => absurd ha (by simp [hactive])⟩, rfl⟩
  · rw [hleft]
    exact ⟨hinv, rfl⟩

end Sys2Proof.Machine
end

section
/-! PROOFS. The invariant over executions (spec/00_scope.md rule R11, spec/45_host_operations.md rules R91 to R95). -/

namespace Sys2Proof.Machine

open Sys2Proof.Claims

/-! ### Events other than a step -/

theorem applyEvent_setKey_state (s : State) (k : KeyNum) (p : Bool) : (applyEvent (.setKey k.val p) s).1 =
    { s.setKeyFlag k p with kwLatch := if latches s k p then some k else s.kwLatch } := by
  simp only [applyEvent, setKey_spec]

theorem applyEvent_setKey_state_of_ge {s : State} {k : Nat} {p : Bool} (h : 16 ≤ k) :
    (applyEvent (.setKey k p) s).1 = s := by
  simp only [applyEvent, setKey_of_ge h]

/-- Everything an event other than a step can do: the timers and the key flags may change, and the latch is filled only
by a key press in a pending wait with an empty latch. -/
theorem applyEvent_of_ne_step {ev : Event} (hev : ev ≠ .step) (s : State) :
    ((applyEvent ev s).1.kwLatch = s.kwLatch ∨ ¬noKeyPress ev ∧ s.kwActive = true ∧ s.kwLatch = none) ∧
    (applyEvent ev s).1 = { s with
      dt := (applyEvent ev s).1.dt
      st := (applyEvent ev s).1.st
      key := (applyEvent ev s).1.key
      kwLatch := (applyEvent ev s).1.kwLatch } := by
  cases ev with
  | step => exact absurd rfl hev
  | tickTimers | snapshot | readDelayTimer | readSoundTimer => exact ⟨.inl rfl, rfl⟩
  | isPressed k =>
    rw [applyEvent_isPressed_state]
    exact ⟨.inl rfl, rfl⟩
  | setKey k p =>
    obtain hk | hk := Nat.lt_or_ge k 16
    · rw [applyEvent_setKey_state s ⟨k, hk⟩ p]
      refine ⟨?_, rfl⟩
      by_cases hl : latches s ⟨k, hk⟩ p
      · have ⟨hp, _, hactive, hlatch⟩ := hl
        exact .inr ⟨by simp [noKeyPress, hp], hactive, hlatch⟩
      · exact .inl (if_neg hl)
    · rw [applyEvent_setKey_state_of_ge hk]
      exact ⟨.inl rfl, rfl⟩

/-! ### Executions (R11) -/

/-- One event keeps the invariant and the parameters. -/
theorem inv_applyEvent {s : State} (hinv : State.inv s) (ev : Event) :
    State.inv (applyEvent ev s).1 ∧ (applyEvent ev s).1.cfg = s.cfg := by
  by_cases hev : ev = .step
  · subst hev
    cases hstep : step s with
    | next t =>
      obtain ⟨i, -, hexec⟩ := step_next hstep
      obtain ⟨-, hcfg⟩ := exec_next_key_cfg hexec
      rw [applyEvent, hostStep_of_next hstep]
      exact ⟨stepKeepsInvariant s t hinv hstep, hcfg⟩
    | fault e =>
      rw [applyEvent, hostStep_of_fault hstep]
      exact inv_of_step_fault hinv hstep
    | refused q =>
      rw [applyEvent, hostStep, hstep]
      exact ⟨hinv, rfl⟩
  · obtain ⟨hlatchNew, hframe⟩ := applyEvent_of_ne_step hev s
    obtain ⟨hm, hpc, hlive, hlatch, hwait⟩ := hinv
    rw [hframe]
    refine ⟨⟨hm, hpc, hlive, fun hl => ?_, fun ha => ?_⟩, rfl⟩
    · obtain hsame | ⟨-, hactive, -⟩ := hlatchNew
      · exact hlatch (hsame ▸ hl)
      · exact hactive
    · obtain ⟨x, hx⟩ := waitAtPc_iff.1 (hwait ha)
      exact waitAtPc_iff.2 ⟨x, (fetchInstr_of_pc_mem rfl rfl).trans hx⟩

/-- Settles O50, by induction on the events. -/
theorem executionsKeepInvariant : Obligations.ExecutionsKeepInvariant := by
  intro es
  induction es with
  | nil => exact fun s hinv => ⟨hinv, rfl⟩
  | cons ev es ih =>
    intro s hinv
    obtain ⟨hinv', hcfg'⟩ := inv_applyEvent hinv ev
    obtain ⟨hrun, hcfg⟩ := ih _ hinv'
    exact ⟨hrun, hcfg.trans hcfg'⟩

end Sys2Proof.Machine
end

section
/-! PROOFS. Stopping points: the pending wait and the jump to its own address (spec/60_exceptions.md section 5,
spec/70_reset_and_hazards.md section 4). -/

namespace Sys2Proof.Machine

open Sys2Proof.Claims

/-! ### A pending wait (R107) -/

/-- A state in a pending wait at a `wait-for-key`. -/
structure PendingWait (s : State) : Prop where
  active : s.kwActive = true
  atWait : ∃ x, fetchInstr s = .ok (.waitForKey x)

/-- A step of a pending wait with an empty latch changes nothing and gives `Waiting`. -/
theorem hostStep_of_pendingWait {s : State} (h : PendingWait s) (hl : s.kwLatch = none) :
    hostStep s = (s, .waiting) := by
  obtain ⟨hactive, x, hx⟩ := h
  rw [hostStep_of_waiting hx (latchedKey_eq_none_iff.2 (.inr hl)), ← hactive]

/-- From `s` to `t` only the timers and the key flags differ. -/
def onlyTimersKeys (s t : State) : Prop := t = { s with dt := t.dt, st := t.st, key := t.key }

theorem onlyTimersKeys.trans {s t u : State} (hst : onlyTimersKeys s t) (htu : onlyTimersKeys t u) :
    onlyTimersKeys s u :=
  Eq.trans htu (by rw [show t = _ from hst])

theorem onlyTimersKeys.kwLatch_eq {s t : State} (h : onlyTimersKeys s t) : t.kwLatch = s.kwLatch :=
  (congrArg State.kwLatch h :)

/-- Neither the timers nor the key flags take part in a pending wait. -/
theorem onlyTimersKeys.pendingWait {s t : State} (h : onlyTimersKeys s t) (hs : PendingWait s) : PendingWait t := by
  obtain ⟨hactive, x, hx⟩ := hs
  have hpc : t.pc = s.pc := (congrArg State.pc h :)
  have hmem : t.mem = s.mem := (congrArg State.mem h :)
  exact ⟨(congrArg State.kwActive h :).trans hactive, x, (fetchInstr_of_pc_mem hpc hmem).trans hx⟩

/-- The events that neither fill the latch of a pending wait nor end the wait: any but a key press while the latch is
empty, any but a step once a key is latched. -/
def keepsWait (latch : Option KeyNum) (ev : Event) : Prop :=
  (latch = none ∧ noKeyPress ev) ∨ (latch ≠ none ∧ ev ≠ .step)

/-- Such an event changes the timers and the key flags only. -/
theorem applyEvent_of_pendingWait {s : State} {ev : Event} (h : PendingWait s) (hev : keepsWait s.kwLatch ev) :
    onlyTimersKeys s (applyEvent ev s).1 := by
  by_cases hstep : ev = .step
  · subst hstep
    obtain ⟨hl, -⟩ | ⟨-, hne⟩ := hev
    · rw [applyEvent, hostStep_of_pendingWait h hl]
      exact rfl
    · exact absurd rfl hne
  · obtain ⟨hlatch, hframe⟩ := applyEvent_of_ne_step hstep s
    have hsame : (applyEvent ev s).1.kwLatch = s.kwLatch := by
      obtain hsame | ⟨hpress, -, hempty⟩ := hlatch
      · exact hsame
      · obtain ⟨-, hno⟩ | ⟨hfull, -⟩ := hev
        · exact absurd hno hpress
        · exact absurd hempty hfull
    rwa [hsame] at hframe

/-- So does any sequence of them. -/
theorem runEvents_of_pendingWait (es : List Event) {s : State} (h : PendingWait s)
    (hes : ∀ ev ∈ es, keepsWait s.kwLatch ev) : onlyTimersKeys s (runEvents es s) := by
  induction es generalizing s with
  | nil => exact rfl
  | cons ev es ih =>
    obtain ⟨hev, hes⟩ := List.forall_mem_cons.1 hes
    have hone := applyEvent_of_pendingWait h hev
    exact hone.trans (ih (hone.pendingWait h) (hone.kwLatch_eq ▸ hes))

/-- Settles O41: the events change the timers and the key flags only, so the machine still waits. -/
theorem waitLastsUntilKeyPress : Obligations.WaitLastsUntilKeyPress := by
  intro s es ha hl hw hes
  have hwait : PendingWait s := ⟨ha, waitAtPc_iff.1 hw⟩
  have hrun : onlyTimersKeys s (runEvents es s) :=
    runEvents_of_pendingWait es hwait fun ev hev => .inl ⟨hl, hes ev hev⟩
  exact ⟨hostStep_of_pendingWait hwait hl, hrun,
    hostStep_of_pendingWait (hrun.pendingWait hwait) (hrun.kwLatch_eq.trans hl)⟩

/-- Settles O42: the press fills the latch, the further events leave it, and the next step completes the wait. -/
theorem firstPressEndsWait : Obligations.FirstPressEndsWait := by
  intro s x k es ha hl hi hkey hes
  have hpress : (applyEvent (.setKey k.val true) s).1 = { s.setKeyFlag k true with kwLatch := some k } := by
    rw [applyEvent_setKey_state, if_pos ⟨rfl, hkey, ha, hl⟩]
  rw [runEvents, hpress]
  have hwait : PendingWait { s.setKeyFlag k true with kwLatch := some k } :=
    ⟨ha, x, (fetchInstr_of_pc_mem rfl rfl).trans hi⟩
  have hrun := runEvents_of_pendingWait es hwait fun ev hev => .inr ⟨by simp, hes ev hev⟩
  have hpc : (runEvents es { s.setKeyFlag k true with kwLatch := some k }).pc = s.pc := (congrArg State.pc hrun :)
  have hmem : (runEvents es { s.setKeyFlag k true with kwLatch := some k }).mem = s.mem := (congrArg State.mem hrun :)
  obtain ⟨hactive, -⟩ := hrun.pendingWait hwait
  rw [hostStep_of_latchedKey ((fetchInstr_of_pc_mem hpc hmem).trans hi)
    (latchedKey_eq_some_iff.2 ⟨hactive, hrun.kwLatch_eq⟩)]
  refine ⟨rfl, ?_, congrArg (· + 2#16) hpc⟩
  exact (congrArg BitVec.toNat ((State.getV_setV _ x x _).trans (if_pos rfl))).trans (Nat.mod_eq_of_lt (by omega))

/-! ### A jump to its own address (R115) -/

/-- One step at a jump to its own address. -/
theorem applyEvent_step_of_atSelfJump {s : State} (h : atSelfJump s = true) :
    applyEvent .step s = (s, .stepped .ok) := by
  unfold atSelfJump at h
  split at h
  next nnn hi =>
    have hself : addrOperand nnn = s.pc := eq_of_beq h
    have hstep : step s = .next s := by
      rw [step_of_fetchInstr hi, exec, execJump, hself]
      rfl
    have hwait : ¬willWait s = true := fun hw => by
      obtain ⟨x, hx⟩ := waitAtPc_iff.1 (willWait_iff.1 hw).1
      cases hi.symm.trans hx
    rw [applyEvent, hostStep_of_next hstep, if_neg hwait]
  next => cases h

/-- Settles O55, by induction on the number of steps. -/
theorem selfJumpStaysForEver : Obligations.SelfJumpStaysForEver := by
  intro s n h
  have hone := applyEvent_step_of_atSelfJump h
  induction n with
  | zero => exact ⟨rfl, rfl⟩
  | succ n ih =>
    obtain ⟨hrun, hresults⟩ := ih
    simp only [List.replicate_succ, runEvents, eventResults, hone, hrun, hresults, and_self]

end Sys2Proof.Machine
end

section
/-! PROOFS. What no instruction reads: the sound timer and the dead stack entries (spec/10_state.md section 2). -/

namespace Sys2Proof.Machine

open Sys2Proof.Claims

/-! ### Another sound timer and another stack under the same rest -/

/-- The state with another sound timer and another return stack. -/
def State.withStStk (s : State) (b : Byte) (k : Vector Word 16) : State := { s with st := b, stk := k }

/-- A fault with the same error and another state left. -/
def Fault.mapLeft (g : State → State) : Fault → Fault
  | .invalidAddress a s => .invalidAddress a (g s)
  | .invalidKey k s => .invalidKey k (g s)
  | .stackOverflow s => .stackOverflow (g s)
  | .stackUnderflow s => .stackUnderflow (g s)
  | .undefinedOpcode w s => .undefinedOpcode w (g s)

@[simp] theorem Fault.kind_mapLeft (g : State → State) (e : Fault) : (e.mapLeft g).kind = e.kind := by
  cases e <;> rfl

@[simp] theorem Fault.left_mapLeft (g : State → State) (e : Fault) : (e.mapLeft g).left = g e.left := by
  cases e <;> rfl

/-- An answer with every state in it replaced. -/
def mapStates (g : State → State) : Result → Result
  | .next t => .next (g t)
  | .fault e => .fault (e.mapLeft g)
  | .refused q => .refused q

/-- Replacing the states of a sequence is replacing those of its first part, when the second commutes with it. -/
theorem andThen_mapStates {g : State → State} {f : State → Result} (hf : ∀ t, f (g t) = mapStates g (f t))
    (r : Result) : andThen (mapStates g r) f = mapStates g (andThen r f) := by
  cases r with
  | next t => exact hf t
  | fault e => rfl
  | refused q => rfl

theorem storeBytes_withStStk (b : Byte) (k : Vector Word 16) (bs : List Byte) (a : Nat) (s : State) :
    storeBytes a bs (s.withStStk b k) = mapStates (·.withStStk b k) (storeBytes a bs s) := by
  induction bs generalizing a s with
  | nil => rfl
  | cons x bs ih =>
    by_cases ha : a < memSize
    · simp only [storeBytes, memWrite_of_lt ha]
      exact ih (a + 1) (s.setMem (s.mem.write a x))
    · simp only [storeBytes, memWrite_of_ge (Nat.le_of_not_lt ha)]
      rfl

theorem loadBytes_withStStk (b : Byte) (k : Vector Word 16) (rs : List Reg) (a : Nat) (s : State) :
    loadBytes a rs (s.withStStk b k) = mapStates (·.withStStk b k) (loadBytes a rs s) := by
  induction rs generalizing a s with
  | nil => rfl
  | cons r rs ih =>
    by_cases ha : a < memSize
    · simp only [loadBytes, memRead_of_lt ha]
      exact ih (a + 1) (s.setV r (s.mem.read a))
    · simp only [loadBytes, memRead_of_ge (Nat.le_of_not_lt ha)]
      rfl

/-- Every instruction that neither uses the stack nor sets the sound timer runs the same over any sound timer and any
stack. -/
theorem exec_withStStk {i : Instr} (hret : i ≠ .ret) (hcall : ∀ nnn, i ≠ .call nnn) (hst : ∀ x, i ≠ .setSoundTimer x)
    (s : State) (b : Byte) (k : Vector Word 16) :
    exec i (s.withStStk b k) = mapStates (·.withStStk b k) (exec i s) := by
  cases i
  case ret => exact absurd rfl hret
  case call nnn => exact absurd rfl (hcall nnn)
  case setSoundTimer x => exact absurd rfl (hst x)
  case draw x y n =>
    have hs := exec_draw_spec x y n s
    have hk := exec_draw_spec x y n (s.withStStk b k)
    by_cases h : n.val = 0 ∨ s.idx.toNat + n.val ≤ 4096
    · rw [hs.trans (if_pos h), hk.trans (if_pos h)]; rfl
    · rw [hs.trans (if_neg h), hk.trans (if_neg h)]; rfl
  case skipIfKeyPressed x =>
    cases h : keyPressed s (s.getV x).toNat with
    | some p => rw [exec_skipIfKeyPressed_of_keyPressed h]; exact exec_skipIfKeyPressed_of_keyPressed h
    | none => rw [exec_skipIfKeyPressed_of_keyPressed_none h]; exact exec_skipIfKeyPressed_of_keyPressed_none h
  case skipIfKeyNotPressed x =>
    cases h : keyPressed s (s.getV x).toNat with
    | some p => rw [exec_skipIfKeyNotPressed_of_keyPressed h]; exact exec_skipIfKeyNotPressed_of_keyPressed h
    | none => rw [exec_skipIfKeyNotPressed_of_keyPressed_none h]; exact exec_skipIfKeyNotPressed_of_keyPressed_none h
  case waitForKey x =>
    cases h : latchedKey s with
    | some j => rw [exec_waitForKey_of_latchedKey h]; exact exec_waitForKey_of_latchedKey h
    | none => rw [exec_waitForKey_of_latchedKey_none h]; exact exec_waitForKey_of_latchedKey_none h
  case storeBcd x =>
    have hstore := storeBytes_withStStk b k (bcdDigits (s.getV x)) (effAddr s 0) s
    exact (congrArg (andThen · fun t => .next t.advance) hstore).trans (andThen_mapStates (fun _ => rfl) _)
  case storeRegisters x =>
    have hstore := storeBytes_withStStk b k (blockBytes s x) (effAddr s 0) s
    exact (congrArg (andThen · fun t => .next t.advance) hstore).trans (andThen_mapStates (fun _ => rfl) _)
  case loadRegisters x =>
    have hload := loadBytes_withStStk b k (regsUpTo x) (effAddr s 0) s
    exact (congrArg (andThen · fun t => .next t.advance) hload).trans (andThen_mapStates (fun _ => rfl) _)
  all_goals rfl

/-! ### Related outcomes -/

/-- An answer is related to the same with its states replaced, when each of its states is related to the new one. -/
theorem outcomesRelated_mapStates {R : State → State → Prop} {g : State → State} {i : Instr} {s : State}
    (hnext : ∀ t, exec i s = .next t → R t (g t)) (hfault : ∀ e, exec i s = .fault e → R e.left (g e.left)) :
    outcomesRelated R (exec i s) (mapStates g (exec i s)) := by
  cases h : exec i s with
  | next t => exact hnext t h
  | fault e => exact ⟨(e.kind_mapLeft g).symm, (e.left_mapLeft g).symm ▸ hfault e h⟩
  | refused q => exact absurd h (exec_ne_refused i s q)

/-- Steps of related states are related when their instructions are: the fetch reads `pc` and memory only. -/
theorem outcomesRelated_step {R : State → State → Prop} {s u : State} (hR : R s u) (hpc : u.pc = s.pc)
    (hmem : u.mem = s.mem) (hexec : ∀ i, outcomesRelated R (exec i s) (exec i u)) :
    outcomesRelated R (step s) (step u) := by
  obtain ⟨i, hi, hs⟩ | ⟨hout, hs⟩ | ⟨w, hf, ⟨r, hd⟩, hs⟩ := step_cases s
  · rw [hs, step_of_fetchInstr ((fetchInstr_of_pc_mem hpc hmem).trans hi)]
    exact hexec i
  · rw [hs, step_of_pc_ge (hpc ▸ hout)]
    exact ⟨rfl, hR⟩
  · obtain rfl := decodeWord_error hd
    rw [hs, step_of_undefined ((fetch_congr hpc hmem).trans hf) hd]
    exact ⟨rfl, hR⟩

/-! ### `call` and `return` on states that differ in the sound timer or in the stack -/

theorem exec_ret_of_pos {s : State} (h : 0 < s.sp.val) :
    exec .ret s = .next { s with sp := ⟨s.sp.val - 1, by omega⟩, pc := s.stk[s.sp.val - 1] } :=
  exec_ret_of_pop (dif_pos h)

theorem exec_call_of_lt {s : State} {nnn : Addr12} (h : s.sp.val < 16) : exec (.call nnn) s =
    .next { s with stk := s.stk.set s.sp.val (s.pc + 2#16), sp := ⟨s.sp.val + 1, by omega⟩, pc := addrOperand nnn } :=
  exec_call_of_push (dif_pos h)

theorem exec_ret_of_empty {s : State} (h : ¬0 < s.sp.val) : exec .ret s = .fault (.stackUnderflow s) :=
  exec_ret_of_pop_none (dif_neg h)

theorem exec_call_of_full {s : State} {nnn : Addr12} (h : ¬s.sp.val < 16) :
    exec (.call nnn) s = .fault (.stackOverflow s) :=
  exec_call_of_push_none (dif_neg h)

theorem outcomesRelated_ret_soundTimer (s : State) (b : Byte) :
    outcomesRelated eqButSoundTimer (exec .ret s) (exec .ret (s.setSt b)) := by
  by_cases h : 0 < s.sp.val
  · rw [exec_ret_of_pos h, exec_ret_of_pos (s := s.setSt b) h]
    exact rfl
  · rw [exec_ret_of_empty h, exec_ret_of_empty (s := s.setSt b) h]
    exact ⟨rfl, rfl⟩

theorem outcomesRelated_call_soundTimer (nnn : Addr12) (s : State) (b : Byte) :
    outcomesRelated eqButSoundTimer (exec (.call nnn) s) (exec (.call nnn) (s.setSt b)) := by
  by_cases h : s.sp.val < 16
  · rw [exec_call_of_lt h, exec_call_of_lt (s := s.setSt b) h]
    exact rfl
  · rw [exec_call_of_full h, exec_call_of_full (s := s.setSt b) h]
    exact ⟨rfl, rfl⟩

section DeadStack

variable {s : State} {k : Vector Word 16} (hlive : ∀ j : Fin 16, j.val < s.sp.val → k[j] = s.stk[j])
include hlive

/-- `return` reads the topmost live entry, which is the same, and one entry more is dead afterwards. -/
theorem outcomesRelated_ret_deadStack :
    outcomesRelated eqButDeadStack (exec .ret s) (exec .ret { s with stk := k }) := by
  by_cases h : 0 < s.sp.val
  · have htop : k[s.sp.val - 1] = s.stk[s.sp.val - 1] := hlive ⟨s.sp.val - 1, by omega⟩ (Nat.sub_lt h Nat.one_pos)
    rw [exec_ret_of_pos h, exec_ret_of_pos (s := { s with stk := k }) h]
    refine ⟨?_, fun j hj => hlive j (Nat.lt_of_lt_of_le hj (Nat.sub_le _ _))⟩
    simp only [htop]
  · rw [exec_ret_of_empty h, exec_ret_of_empty (s := { s with stk := k }) h]
    exact ⟨rfl, rfl, hlive⟩

/-- `call` writes the first dead entry, and the live ones stay the same. -/
theorem outcomesRelated_call_deadStack (nnn : Addr12) :
    outcomesRelated eqButDeadStack (exec (.call nnn) s) (exec (.call nnn) { s with stk := k }) := by
  by_cases h : s.sp.val < 16
  · rw [exec_call_of_lt h, exec_call_of_lt (s := { s with stk := k }) h]
    refine ⟨rfl, fun j hj => ?_⟩
    have hj : j.val < s.sp.val + 1 := hj
    have hold : s.sp.val ≠ j.val → k[j.val] = s.stk[j.val] := fun hne => hlive j (by omega)
    simp only [Fin.getElem_fin, Vector.getElem_set]
    split
    · rfl
    next hne => exact hold hne
  · rw [exec_call_of_full h, exec_call_of_full (s := { s with stk := k }) h]
    exact ⟨rfl, rfl, hlive⟩

end DeadStack

/-! ### The obligations -/

/-- Settles O56: `set-sound-timer` writes the timer in both states, the stack instructions leave it, and any other
instruction runs the same over any sound timer. -/
theorem soundTimerIsNotRead : Obligations.SoundTimerIsNotRead := by
  intro s u hu
  obtain ⟨b, rfl⟩ : ∃ b, u = s.setSt b := ⟨u.st, hu⟩
  refine outcomesRelated_step hu rfl rfl fun i => ?_
  by_cases hret : i = .ret
  · exact hret ▸ outcomesRelated_ret_soundTimer s b
  by_cases hcall : ∃ nnn, i = .call nnn
  · obtain ⟨nnn, rfl⟩ := hcall
    exact outcomesRelated_call_soundTimer nnn s b
  by_cases hst : ∃ x, i = .setSoundTimer x
  · obtain ⟨x, rfl⟩ := hst
    exact rfl
  have hcall : ∀ nnn, i ≠ .call nnn := fun nnn h => hcall ⟨nnn, h⟩
  have hst : ∀ x, i ≠ .setSoundTimer x := fun x h => hst ⟨x, h⟩
  rw [show s.setSt b = s.withStStk b s.stk from rfl, exec_withStStk hret hcall hst]
  refine outcomesRelated_mapStates (fun t ht => ?_) (fun e he => ?_)
  · obtain ⟨-, hstk⟩ := exec_next_sp_stk ht hret hcall
    rw [← hstk]
    exact rfl
  · have hstk : e.left.stk = s.stk := (congrArg State.stk (exec_fault_frame he) :)
    rw [← hstk]
    exact rfl

/-- Settles O57: `return` reads a live entry, `call` writes a dead one, `set-sound-timer` touches no entry, and any
other instruction runs the same over any stack. -/
theorem deadStackEntriesAreNotRead : Obligations.DeadStackEntriesAreNotRead := by
  intro s u hu
  have ⟨hframe, hlive⟩ := hu
  obtain ⟨k, rfl⟩ : ∃ k, u = { s with stk := k } := ⟨u.stk, hframe⟩
  refine outcomesRelated_step hu rfl rfl fun i => ?_
  by_cases hret : i = .ret
  · exact hret ▸ outcomesRelated_ret_deadStack hlive
  by_cases hcall : ∃ nnn, i = .call nnn
  · obtain ⟨nnn, rfl⟩ := hcall
    exact outcomesRelated_call_deadStack hlive nnn
  by_cases hst : ∃ x, i = .setSoundTimer x
  · obtain ⟨x, rfl⟩ := hst
    exact ⟨rfl, hlive⟩
  have hcall : ∀ nnn, i ≠ .call nnn := fun nnn h => hcall ⟨nnn, h⟩
  have hst : ∀ x, i ≠ .setSoundTimer x := fun x h => hst ⟨x, h⟩
  rw [show { s with stk := k } = s.withStStk s.st k from rfl, exec_withStStk hret hcall hst]
  have hrelated : ∀ t : State, t.st = s.st → t.sp = s.sp → t.stk = s.stk → eqButDeadStack t (t.withStStk s.st k) := by
    intro t htst htsp htstk
    rw [← htst]
    exact ⟨rfl, fun j hj => by rw [htstk]; exact hlive j (htsp ▸ hj)⟩
  refine outcomesRelated_mapStates (fun t ht => ?_) (fun e he => ?_)
  · obtain ⟨hsp, hstk⟩ := exec_next_sp_stk ht hret hcall
    exact hrelated t (exec_next_st ht hst) hsp hstk
  · have hframe := exec_fault_frame he
    exact hrelated e.left (congrArg State.st hframe :) (congrArg State.sp hframe :) (congrArg State.stk hframe :)

end Sys2Proof.Machine
end
